-- ==== Sys2Proof/Word.lean ====
section
/-! DEFINITION. The word types of the TBPU: a register or a colour is 32 bits (R21, R35), a tile byte or a chunk
character 8 bits (R38, R39), a background cell 16 bits (R40). -/

namespace Sys2Proof

/-- A register, a colour, a command word, the data and the address of a host transaction (R21, R35, R60, R90). -/
abbrev Word := BitVec 32

/-- One byte of a tile or one character of a chunk (R38, R39). -/
abbrev Byte := BitVec 8

/-- One cell of the background map (R40, R69). -/
abbrev BgCell := BitVec 16

end Sys2Proof
end

