-- ==== Sys2Proof/Machine/Bits.lean ====
section
/-! DEFINITION. The bit notation of 00_scope.md R10: fields, single bits, zero and sign extension, truncation. -/

namespace Sys2Proof.Machine

/-- `v[hi:lo]` of R10: the bit field from bit `hi` down to bit `lo`, as a natural number. -/
def bitField {w : Nat} (v : BitVec w) (hi lo : Nat) : Nat := v.toNat / 2 ^ lo % 2 ^ (hi + 1 - lo)

/-- `bit(v, i) = v[i:i]` of R10. -/
def bitAt {w : Nat} (v : BitVec w) (i : Nat) : Nat := bitField v i i

/-- `zext_N(v)` of R10. -/
def zext {w : Nat} (n : Nat) (v : BitVec w) : BitVec n := v.setWidth n

/-- `sext_N(v)` of R10, defined by the format and used by no rule. -/
def sext {w : Nat} (n : Nat) (v : BitVec w) : BitVec n := v.signExtend n

/-- `trunc_N(v) = v mod 2^N` of R10, of a natural number. -/
def truncNat (n v : Nat) : BitVec n := BitVec.ofNat n v

/-- `trunc_w(v)` of R61: the low `w` bits of the data of a host write. -/
def truncWord (n : Nat) (v : Word) : BitVec n := truncNat n v.toNat

end Sys2Proof.Machine
end

