-- ==== Sys2Proof/Syntax.lean ====
section
/-! DEFINITION. The six commands of the opcode map (30_encoding.md R91). A command word carries no operand (R92), so no
constructor has an argument: the operands are the registers, read when the command starts. -/

namespace Sys2Proof

/-- The commands of R91, in the order of their opcodes. -/
inductive Instr where
  /-- NOP, word 0 (R180). -/
  | nop
  /-- FIND, word 1 (R111). -/
  | find
  /-- PACK, word 2 (R121). -/
  | pack
  /-- SLICE, word 3 (R131). -/
  | slice
  /-- AUTOTILE, word 4 (R152). -/
  | autotile
  /-- ILLUM, word 5 (R170). -/
  | illum
  deriving DecidableEq, Repr

end Sys2Proof
end

