-- ==== Sys2Proof/WellFormed.lean ====
section
/-! DEFINITION. Well-formedness of command words and commands (30_encoding.md R90, R93). The other things of the model
that can be ill formed have their checks where they are defined: a configuration (`Cfg.legal`, R7), an autotile table
(`Lut.legal`, R150), a memory (`Memory.wf`). -/

namespace Sys2Proof

/-- A command word is legal when bits 31:8 are 0 and the opcode is one of the map (R93 gives the opposite). -/
def legalWord (v : Word) : Bool :=
  Machine.bitField v 31 8 == 0 && decide (Machine.bitField v 7 0 ≤ 5)

/-- A command has no operand field, so nothing of it can be out of range (R90, R92): each is well formed. -/
def Instr.wf : Instr → Bool
  | .nop => true
  | .find => true
  | .pack => true
  | .slice => true
  | .autotile => true
  | .illum => true

end Sys2Proof
end

