-- ==== Sys2Proof/Decode.lean ====
section
/-! DEFINITION. The command decoder (30_encoding.md R91, R93, R95), total on all 2^32 words, and the encoder. -/

namespace Sys2Proof

/-- What a command word is: one of the six commands, or illegal (R94: there is nothing between). -/
inductive Decoded where
  /-- The word of this command (R91). -/
  | command (i : Instr)
  /-- An illegal word (R93), which raises IllegalCommand with the word as its info (R198). -/
  | illegalCommand (v : Word)
  deriving DecidableEq, Repr

/-- The opcode map of R91, by bits 7:0. -/
def opcodeCommand (op : Nat) : Option Instr :=
  match op with
  | 0 => some .nop
  | 1 => some .find
  | 2 => some .pack
  | 3 => some .slice
  | 4 => some .autotile
  | 5 => some .illum
  | _ => none

/-- The decoder of R95: bits 31:8 must be 0 and bits 7:0 must be an opcode of the map, else the word is illegal (R93). -/
def decode (v : Word) : Decoded :=
  if Machine.bitField v 31 8 ≠ 0 then .illegalCommand v
  else
    match opcodeCommand (Machine.bitField v 7 0) with
    | some i => .command i
    | none => .illegalCommand v

/-- The opcode of a command, the column "opcode" of R91. -/
def opcode : Instr → Nat
  | .nop => 0x00
  | .find => 0x01
  | .pack => 0x02
  | .slice => 0x03
  | .autotile => 0x04
  | .illum => 0x05

/-- The command word of a command: format CMD of R90, `zero` in bits 31:8 and the opcode in bits 7:0. -/
def encode (i : Instr) : Word := BitVec.ofNat 24 0 ++ BitVec.ofNat 8 (opcode i)

/-- The command the decoder reads from the word whose bits are `w`, of which a table row gives `nbits` (log 18). -/
def decodeTableWord (nbits w : Nat) : Option Instr :=
  match decode (BitVec.ofNat 32 (w % 2 ^ nbits)) with
  | .command i => some i
  | .illegalCommand _ => none

end Sys2Proof
end

