-- ==== Sys2Proof/Config.lean ====
section
/-! DEFINITION. The configuration record `Cfg` of 00_scope.md R7 and the free values: the OPEN numbers of D7 and the
contents the spec leaves unspecified after a reset (10_state.md R44, U1). The free values have no body: nothing in Lean
can find out what they are. -/

namespace Sys2Proof

/-- The 9 tile variants, in the order of their codes 0 to 8 (43_autotile.md R141). -/
inductive Variant where
  | tlc | top | trc | left | cross | right | blc | bot | brc
  deriving DecidableEq, Repr, Inhabited

/-- The position classes of a cell in its quadrant (43_autotile.md R143). -/
inductive PosClass where
  | topRow | botRow | leftCol | rightCol | interior
  deriving DecidableEq, Repr

/-- `VARIANT_TILE[v]` of R7, one tile index for each variant. -/
structure VariantTiles where
  tlc : Byte
  top : Byte
  trc : Byte
  left : Byte
  cross : Byte
  right : Byte
  blc : Byte
  bot : Byte
  brc : Byte
  deriving DecidableEq, Repr, Inhabited

/-- The autotile table `LUT` of R7 and R150: for each class a row of 16 variants, by neighbour mask. -/
structure Lut where
  topRow : List Variant
  botRow : List Variant
  leftCol : List Variant
  rightCol : List Variant
  interior : List Variant
  deriving DecidableEq, Repr

/-- The configuration record of R7. The types give the ranges of the tile indices (0 to 255) and palette indices
(0 to 7); the other constraints are `Cfg.legal`. -/
structure Cfg where
  /-- `BG_W`. -/
  bgW : Nat
  /-- `BG_H`. -/
  bgH : Nat
  /-- `PIX_N`. -/
  pixN : Nat
  /-- `TILE_N`. -/
  tileN : Nat
  /-- `VARIANT_TILE[0..8]`. -/
  variantTile : VariantTiles
  /-- `GROUND_TILE`. -/
  groundTile : Byte
  /-- `GROUND_PAL`. -/
  groundPal : BitVec 3
  /-- `UNLIT_PAL`. -/
  unlitPal : BitVec 3
  /-- `LIT_PAL`. -/
  litPal : BitVec 3
  /-- `LUT`. -/
  lut : Lut
  deriving DecidableEq, Repr

namespace Config

/-- `VARIANT_TILE` of the machine of `State.reset`: OPEN (R7, D7; log 5). -/
opaque openVariantTile : VariantTiles

/-- `GROUND_TILE` of the machine of `State.reset`: OPEN (R7, D7; log 5). -/
opaque openGroundTile : Byte

/-- `GROUND_PAL` of the machine of `State.reset`: OPEN (R7, D7; log 5). -/
opaque openGroundPal : BitVec 3

/-- `UNLIT_PAL` of the machine of `State.reset`: OPEN (R7, D7; log 5). -/
opaque openUnlitPal : BitVec 3

/-- `LIT_PAL` of the machine of `State.reset`: OPEN (R7, D7; log 5). -/
opaque openLitPal : BitVec 3

/-- What element `i` of PIX holds after reset number `draw`: unspecified (R44, U1, U18; log 6). -/
opaque freePix (draw i : Nat) : Word

/-- What element `i` of the palette table (palette `i / 4`, colour `i % 4`) holds after reset number `draw`:
unspecified (R44, U1, U18; log 6). -/
opaque freePal (draw i : Nat) : Word

/-- What element `i` of CHUNK (slot `i / 0x400`, character `i % 0x400`) holds after reset number `draw`: unspecified
(R44, U1, U18; log 6). -/
opaque freeChunk (draw i : Nat) : Byte

/-- What element `i` of BG holds after reset number `draw`, bits 15:11 included: unspecified (R44, U1, U18; log 6). -/
opaque freeBg (draw i : Nat) : BgCell

end Config

end Sys2Proof
end

