-- ==== Sys2Proof/Machine/Defaults.lean ====
section
/-! DEFINITION. The constraints of the configuration (00_scope.md R7), the autotile table with its tags (43_autotile.md
R150), the default configuration (R7) and the two named ones of the test vectors (R8). -/

namespace Sys2Proof.Machine

/-- `QW = BG_W div 2` (R7). -/
def qw (c : Cfg) : Nat := c.bgW / 2

/-- `QH = BG_H div 2` (R7). -/
def qh (c : Cfg) : Nat := c.bgH / 2

/-- The code of a variant (R141). -/
def variantCode : Variant → Nat
  | .tlc => 0
  | .top => 1
  | .trc => 2
  | .left => 3
  | .cross => 4
  | .right => 5
  | .blc => 6
  | .bot => 7
  | .brc => 8

/-- The variant of a code (R141); codes above 8 do not occur. -/
def variantOfCode (n : Nat) : Variant :=
  match n with
  | 0 => .tlc
  | 1 => .top
  | 2 => .trc
  | 3 => .left
  | 4 => .cross
  | 5 => .right
  | 6 => .blc
  | 7 => .bot
  | _ => .brc

/-- `VARIANT_TILE[v]` (R7). -/
def variantTileOf (t : VariantTiles) : Variant → Byte
  | .tlc => t.tlc
  | .top => t.top
  | .trc => t.trc
  | .left => t.left
  | .cross => t.cross
  | .right => t.right
  | .blc => t.blc
  | .bot => t.bot
  | .brc => t.brc

/-- The row of a table for a class. -/
def lutRow (l : Lut) : PosClass → List Variant
  | .topRow => l.topRow
  | .botRow => l.botRow
  | .leftCol => l.leftCol
  | .rightCol => l.rightCol
  | .interior => l.interior

/-- `LUT[class][m]` (R150). A legal table has 16 entries in each row, so the default is never used for a mask. -/
def lutEntry (l : Lut) (k : PosClass) (m : Nat) : Variant := (lutRow l k).getD m .tlc

/-- The table of R150, as its rows of 16 codes for m = 0 to 15. -/
def defaultLut : Lut where
  topRow := [0, 0, 0, 0, 2, 2, 2, 2, 0, 0, 0, 0, 1, 1, 1, 1].map variantOfCode
  botRow := [6, 6, 6, 6, 8, 8, 8, 8, 6, 6, 6, 6, 7, 7, 7, 7].map variantOfCode
  leftCol := [3, 0, 6, 3, 3, 0, 6, 3, 3, 0, 6, 3, 3, 0, 6, 3].map variantOfCode
  rightCol := [5, 2, 8, 5, 5, 2, 8, 5, 5, 2, 8, 5, 5, 2, 8, 5].map variantOfCode
  interior := [0, 0, 6, 5, 2, 2, 8, 5, 0, 0, 6, 3, 1, 1, 7, 4].map variantOfCode

/-- The tags of the entries of R150. -/
inductive LutTag where
  /-- The entry follows from the document. -/
  | s
  /-- No cell can reach the entry. -/
  | u
  /-- The document fixes the family of three. -/
  | k
  /-- The document fixes the pair LEFT, RIGHT. -/
  | b
  /-- The document has no case. -/
  | d
  deriving DecidableEq, Repr

/-- The column of tags of R150 for a class, for m = 0 to 15. -/
def lutTags : PosClass → List LutTag
  | .topRow => [.s, .u, .s, .u, .s, .u, .s, .u, .s, .u, .s, .u, .s, .u, .s, .u]
  | .botRow => [.s, .s, .u, .u, .s, .s, .u, .u, .s, .s, .u, .u, .s, .s, .u, .u]
  | .leftCol => [.d, .s, .s, .s, .u, .u, .u, .u, .d, .s, .s, .s, .u, .u, .u, .u]
  | .rightCol => [.d, .s, .s, .s, .d, .s, .s, .s, .u, .u, .u, .u, .u, .u, .u, .u]
  | .interior => [.d, .k, .k, .b, .d, .k, .k, .b, .d, .k, .k, .b, .d, .k, .k, .s]

/-- The tag of entry m of a class (R150). -/
def lutTag (k : PosClass) (m : Nat) : LutTag := (lutTags k).getD m .u

/-- The value a tag allows at entry m of a class: the table's own (`s`), one of the three top-side or bottom-side
variants (`k`, by whether the up neighbour is present), LEFT or RIGHT (`b`), any variant (`d`, `u`) (R150, U4, U5). -/
def lutAllows (k : PosClass) (m : Nat) (v : Variant) : Bool :=
  match lutTag k m with
  | .s => v == lutEntry defaultLut k m
  | .u => true
  | .k => if m % 2 = 1 then [Variant.tlc, .top, .trc].contains v else [Variant.blc, .bot, .brc].contains v
  | .b => [Variant.left, .right].contains v
  | .d => true

/-- The five classes. -/
def allClasses : List PosClass := [.topRow, .botRow, .leftCol, .rightCol, .interior]

/-- A table is legal when each row has 16 entries and each entry is one its tag allows (R7: "its source-settled entries
are fixed"; U4; log 9). -/
def lutLegal (l : Lut) : Bool :=
  allClasses.all fun k =>
    (lutRow l k).length == 16 && (List.range 16).all fun m => lutAllows k m (lutEntry l k m)

/-- The constraints of R7. -/
def cfgLegal (c : Cfg) : Bool :=
  c.bgW % 2 == 0 && decide (2 ≤ c.bgW) && (c.bgH % 2 == 0 && decide (2 ≤ c.bgH))
    && decide (c.bgW * c.bgH ≤ 8192) && decide (qw c * qh c ≤ 1024)
    && (decide (1 ≤ c.pixN) && decide (c.pixN ≤ 65536))
    && (decide (1 ≤ c.tileN) && decide (c.tileN ≤ 256))
    && lutLegal c.lut

/-- A configuration that meets the constraints of R7. One that breaks a constraint is not admitted (U3: `refuse`): it
cannot be written down as a `LegalCfg` (log 4). -/
structure LegalCfg extends Cfg where
  isLegal : cfgLegal toCfg = true
  deriving DecidableEq, Repr

/-- The configuration of `State.reset`: every default of R7, and the OPEN numbers free (log 5). -/
def defaultCfg : LegalCfg where
  bgW := 32
  bgH := 30
  pixN := 16384
  tileN := 256
  variantTile := Config.openVariantTile
  groundTile := Config.openGroundTile
  groundPal := Config.openGroundPal
  unlitPal := Config.openUnlitPal
  litPal := Config.openLitPal
  lut := defaultLut
  isLegal := by decide

/-- `REFCFG` of R8, for test vectors only. -/
def refCfg : LegalCfg where
  bgW := 32
  bgH := 30
  pixN := 16384
  tileN := 256
  variantTile := ⟨0x10, 0x11, 0x12, 0x13, 0x14, 0x15, 0x16, 0x17, 0x18⟩
  groundTile := 0x20
  groundPal := 0
  unlitPal := 1
  litPal := 2
  lut := defaultLut
  isLegal := by decide

/-- `SMALLCFG` of R8: REFCFG with a 10 x 10 map and 1024 pixels, for test vectors only. -/
def smallCfg : LegalCfg where
  bgW := 10
  bgH := 10
  pixN := 1024
  tileN := 256
  variantTile := ⟨0x10, 0x11, 0x12, 0x13, 0x14, 0x15, 0x16, 0x17, 0x18⟩
  groundTile := 0x20
  groundPal := 0
  unlitPal := 1
  litPal := 2
  lut := defaultLut
  isLegal := by decide

end Sys2Proof.Machine
end

