-- ==== Sys2Proof/Machine/State.lean ====
section
/-! DEFINITION. The architectural state (10_state.md R20 to R46), as plain data: the registers of R21, the five memories,
and the model's own four fields (configuration, draw counter, host transactions, last response). Also what a step can end
in, and the state after reset (R44). -/

namespace Sys2Proof.Machine

/-- A memory as the list of the elements WRITTEN since the last reset, by element number, numbers strictly rising. An
element that is not listed has the contents the reset left: the free value of the element for PIX, PAL, CHUNK and BG, and
0 for TILE, of which no listed element is 0 (log 7). -/
abbrev Memory (w : Nat) := List (Nat × BitVec w)

/-- The canonical form of a memory: element numbers strictly rising. -/
abbrev Memory.wf {w : Nat} (m : Memory w) : Prop := (m.map Prod.fst).Pairwise (· < ·)

/-- One register for each of the four slots: CHUNK_MAGIC[0..3] or CHUNK_LEN[0..3] (R32, R33). -/
structure PerSlot where
  slot0 : Word
  slot1 : Word
  slot2 : Word
  slot3 : Word
  deriving DecidableEq, Repr

/-- A host transaction (20_memory.md R60), or the hardware reset that can come between two of them (R220). -/
inductive Transaction where
  /-- `HostRead(a)`. -/
  | read (a : Word)
  /-- `HostWrite(a, v)`. -/
  | write (a v : Word)
  /-- The event "reset" of the pin `rst_i` (R220, U14; log 10). -/
  | resetPin
  deriving DecidableEq, Repr

/-- A response (R60). -/
inductive Resp where
  | ok | error
  deriving DecidableEq, Repr

/-- What a transaction answers: a read a response and a data, a write a response (R60, R61). -/
inductive Answer where
  | read (r : Resp) (data : Word)
  | write (r : Resp)
  deriving DecidableEq, Repr

/-- The registers of the register window (R21). -/
inductive Reg where
  | id | ctrl | status | err | errInfo | errCmd | cmd | result
  | src | width | height | len | pal | dst | quad | color
  | chunkMagic (q : Fin 4)
  | chunkLen (q : Fin 4)
  deriving DecidableEq, Repr

/-- An element of the state that a word address can name (R62). -/
inductive Element where
  | reg (r : Reg)
  /-- `PAL[p][i]`. -/
  | pal (p i : Nat)
  /-- `CHUNK[q][i]`. -/
  | chunk (q : Fin 4) (i : Nat)
  /-- `BG[i]`. -/
  | bg (i : Nat)
  /-- `TILE[t][b]`. -/
  | tile (t b : Nat)
  /-- `PIX[i]`. -/
  | pix (i : Nat)
  deriving DecidableEq, Repr

/-- The host's access to a register or a memory (R21, R62). -/
inductive Access where
  | rw | ro | wo
  deriving DecidableEq, Repr

/-- The fault names of the taxonomy (60_exceptions.md R191). A hardware fault is recorded in the state, it does not stop
the machine (R200, R203). -/
inductive FaultCode where
  | colorNotInPalette
  | invalidTileSize
  | invalidSpritesheetDimensions
  | chunkMagicMismatch
  | chunkSizeMismatch
  /-- Reserved: raised by no command (R197). -/
  | imageDimensionMismatch
  | illegalCommand
  | operandRange
  deriving DecidableEq, Repr

/-- `Fault(code, info)` of R13; `info` is cut to 32 bits where it is recorded (R200). -/
structure Raise where
  code : FaultCode
  info : Nat
  deriving DecidableEq, Repr

/-- What STOPS the machine: nothing (93_implementation_defined.md: no behaviour is `stuck`; a TBPU fault is a next state,
R200). The type has no constructor, so no step can end this way, which is safe (log 12). -/
inductive Fault : Type
  deriving DecidableEq, Repr

/-- A command the model gives no meaning to. -/
inductive Refusal where
  /-- Raised by an arm of `exec` for a command that is not modelled; no arm raises it. Safe. -/
  | notModelled (mnemonic : String)
  deriving DecidableEq, Repr

/-- The state of the machine. The registers ID, CTRL and CMD keep no value of their own (R22, R23, R28), and the pin
`fault_o` equals `fault` (R42). -/
structure State where
  /-- STATUS bit 0, FAULT (R24). -/
  fault : Bool
  /-- ERR bits 7:0 (R25). -/
  err : Byte
  /-- ERRINFO (R26). -/
  errInfo : Word
  /-- ERRCMD (R27). -/
  errCmd : Word
  /-- RESULT (R29). -/
  result : Word
  /-- SRC (R30). -/
  src : Word
  /-- WIDTH (R30). -/
  width : Word
  /-- HEIGHT (R30). -/
  height : Word
  /-- LEN (R30). -/
  len : Word
  /-- PAL, the register (R30). -/
  pal : Word
  /-- DST (R30). -/
  dst : Word
  /-- QUAD (R30). -/
  quad : Word
  /-- COLOR (R30). -/
  color : Word
  /-- CHUNK_MAGIC[0..3] (R32). -/
  chunkMagic : PerSlot
  /-- CHUNK_LEN[0..3] (R33). -/
  chunkLen : PerSlot
  /-- PIX (R35); element `i` is number `i`. -/
  pix : Memory 32
  /-- PAL, the palette table (R36); `PAL[p][i]` is number `4*p + i`. -/
  palTable : Memory 32
  /-- CHUNK (R39); `CHUNK[q][i]` is number `0x400*q + i`. -/
  chunk : Memory 8
  /-- TILE (R38); `TILE[t][b]` is number `16*t + b`. -/
  tile : Memory 8
  /-- BG (R40); element `i` is number `i`. -/
  bg : Memory 16
  /-- The model's own: the configuration (R7, R20; log 4). -/
  cfg : LegalCfg
  /-- The model's own: the number of the last reset, which the unspecified contents depend on (R44; log 6, log 8). -/
  draw : Nat
  /-- The model's own: the host's transactions still to be performed, next first (R20, R75; log 1). -/
  host : List Transaction
  /-- The model's own: what the last transaction answered (R60; log 3). -/
  answer : Option Answer
  deriving DecidableEq, Repr

/-- The machine right after reset (the table of R44): every register 0, every tile byte 0, the other memories unspecified,
the default configuration (log 5), and no host transaction yet (log 1). -/
def State.reset : State where
  fault := false
  err := 0
  errInfo := 0
  errCmd := 0
  result := 0
  src := 0
  width := 0
  height := 0
  len := 0
  pal := 0
  dst := 0
  quad := 0
  color := 0
  chunkMagic := ⟨0, 0, 0, 0⟩
  chunkLen := ⟨0, 0, 0, 0⟩
  pix := []
  palTable := []
  chunk := []
  tile := []
  bg := []
  cfg := defaultCfg
  draw := 0
  host := []
  answer := none

end Sys2Proof.Machine
end

