-- ==== Sys2Proof/Machine/Flags.lean ====
section
/-! DEFINITION. The one status flag FAULT, the words that show it and the fault record, the pin `fault_o`, and the numbers
of the fault codes (10_state.md R24 to R27, R42; 60_exceptions.md R191). There is no other flag (R34). -/

namespace Sys2Proof.Machine

/-- The code of a fault (the table of R191). -/
def faultNumber : FaultCode → Nat
  | .colorNotInPalette => 1
  | .invalidTileSize => 2
  | .invalidSpritesheetDimensions => 3
  | .chunkMagicMismatch => 4
  | .chunkSizeMismatch => 5
  | .imageDimensionMismatch => 6
  | .illegalCommand => 7
  | .operandRange => 8

/-- When a fault of the document's taxonomy belongs (R208). -/
inductive FaultTime where
  | authoring | runtime
  deriving DecidableEq, Repr

/-- Codes 1, 2 and 3 are authoring-time faults, codes 4 and 5 runtime faults; the spec names no time for the others (R208). -/
def faultTime : FaultCode → Option FaultTime
  | .colorNotInPalette => some .authoring
  | .invalidTileSize => some .authoring
  | .invalidSpritesheetDimensions => some .authoring
  | .chunkMagicMismatch => some .runtime
  | .chunkSizeMismatch => some .runtime
  | .imageDimensionMismatch => none
  | .illegalCommand => none
  | .operandRange => none

/-- STATUS: FAULT in bit 0, bits 31:1 read 0 (R24). -/
def statusWord (s : State) : Word := if s.fault then 1 else 0

/-- ERR: the code in bits 7:0, bits 31:8 read 0 (R25). -/
def errWord (s : State) : Word := zext 32 s.err

/-- The output pin `fault_o`, which equals STATUS.FAULT at every moment (R42, R204). -/
def faultPin (s : State) : Bool := s.fault

end Sys2Proof.Machine
end

