-- ==== Sys2Proof/Machine/Ops.lean ====
section
/-! DEFINITION. The shared operations: the memories, the registers, the address map (20_memory.md R61, R62), the reset
action (70_reset_and_hazards.md R221), fault entry (60_exceptions.md R200) and the frame every command runs in
(30_encoding.md R98). -/

namespace Sys2Proof.Machine

/-! ### Memories -/

/-- The listed value of element `a`, if it is listed. -/
def memLookup {w : Nat} : Memory w → Nat → Option (BitVec w)
  | [], _ => none
  | (b, x) :: m, a => if a = b then some x else memLookup m a

/-- List element `a` with the value `v`, in its place by number. -/
def memInsert {w : Nat} : Memory w → Nat → BitVec w → Memory w
  | [], a, v => [(a, v)]
  | (b, x) :: m, a, v =>
    if a < b then (a, v) :: (b, x) :: m
    else if a = b then (a, v) :: m
    else (b, x) :: memInsert m a v

/-- No longer list element `a`. -/
def memErase {w : Nat} (m : Memory w) (a : Nat) : Memory w := m.filter fun e => e.1 != a

/-- List several elements, one after another. -/
def memInsertAll {w : Nat} (m : Memory w) (ws : List (Nat × BitVec w)) : Memory w :=
  ws.foldl (fun m e => memInsert m e.1 e.2) m

/-- Write element `a` of TILE: an unlisted byte of TILE is 0, so a 0 is not listed (R44; log 7). -/
def tileInsert (m : Memory 8) (a : Nat) (v : Byte) : Memory 8 :=
  if v = 0 then memErase m a else memInsert m a v

/-- Write several elements of TILE, one after another. -/
def tileInsertAll (m : Memory 8) (ws : List (Nat × Byte)) : Memory 8 :=
  ws.foldl (fun m e => tileInsert m e.1 e.2) m

/-- The number of `PAL[p][i]` (R36, R62). -/
def palIndex (p i : Nat) : Nat := 4 * p + i

/-- The number of `CHUNK[q][i]` (R39, R62). -/
def chunkIndex (q : Fin 4) (i : Nat) : Nat := 0x400 * q.val + i

/-- The number of `TILE[t][b]` (R38, R62). -/
def tileIndex (t b : Nat) : Nat := 16 * t + b

/-- `PIX[i]` (R35). -/
def readPix (s : State) (i : Nat) : Word := (memLookup s.pix i).getD (Config.freePix s.draw i)

/-- `PAL[p][i]` (R36). -/
def readPal (s : State) (p i : Nat) : Word :=
  (memLookup s.palTable (palIndex p i)).getD (Config.freePal s.draw (palIndex p i))

/-- `CHUNK[q][i]` (R39). -/
def readChunk (s : State) (q : Fin 4) (i : Nat) : Byte :=
  (memLookup s.chunk (chunkIndex q i)).getD (Config.freeChunk s.draw (chunkIndex q i))

/-- Element `i` of BG, when its listed elements are `m` and the reset was number `draw` (R40). -/
def bgLookup (draw : Nat) (m : Memory 16) (i : Nat) : BgCell := (memLookup m i).getD (Config.freeBg draw i)

/-- `BG[i]` (R40). -/
def readBg (s : State) (i : Nat) : BgCell := bgLookup s.draw s.bg i

/-- Element `a` of TILE, when its listed elements are `m`: 0 unless listed (R44). -/
def tileLookup (m : Memory 8) (a : Nat) : Byte := (memLookup m a).getD 0

/-- `TILE[t][b]` (R38). -/
def readTile (s : State) (t b : Nat) : Byte := tileLookup s.tile (tileIndex t b)

/-! ### Data formats -/

/-- A colour of its four channels (R67). -/
def colorOf (red green blue alpha : Byte) : Word := alpha ++ blue ++ green ++ red

/-- A background cell of its palette index and its tile index: `P*256 + T` (R69). -/
def bgCell (palette : BitVec 3) (tile : Byte) : BgCell := truncNat 16 (palette.toNat * 256 + tile.toNat)

/-- The tile index of a cell, bits 7:0 (R40). -/
def cellTile (c : BgCell) : Nat := bitField c 7 0

/-- The palette index of a cell, bits 10:8 (R40). -/
def cellPalette (c : BgCell) : Nat := bitField c 10 8

/-- A 4-character identifier in a register, first character in the low byte (R70). -/
def identifier (s0 s1 s2 s3 : Byte) : Word := s3 ++ s2 ++ s1 ++ s0

/-- The colour index of pixel (r, c) of tile t: `2*bit(TILE[t][8+r], c) + bit(TILE[t][r], c)` (R38, R122). -/
def unpackPixel (s : State) (t r c : Nat) : Nat := 2 * bitAt (readTile s t (8 + r)) c + bitAt (readTile s t r) c

/-! ### Registers (R21) -/

/-- The register of a slot. -/
def slotGet (p : PerSlot) (q : Fin 4) : Word :=
  match q with
  | 0 => p.slot0
  | 1 => p.slot1
  | 2 => p.slot2
  | 3 => p.slot3

/-- Set the register of a slot. -/
def slotSet (p : PerSlot) (q : Fin 4) (v : Word) : PerSlot :=
  match q with
  | 0 => { p with slot0 := v }
  | 1 => { p with slot1 := v }
  | 2 => { p with slot2 := v }
  | 3 => { p with slot3 := v }

/-- The constant of ID (R22). -/
def idWord : Word := 0x54425031

/-- The register at a word address of the register window (the table of R21). -/
def regAt (a : Nat) : Option Reg :=
  match a with
  | 0x00 => some .id
  | 0x01 => some .ctrl
  | 0x02 => some .status
  | 0x03 => some .err
  | 0x04 => some .errInfo
  | 0x05 => some .errCmd
  | 0x06 => some .cmd
  | 0x07 => some .result
  | 0x08 => some .src
  | 0x09 => some .width
  | 0x0A => some .height
  | 0x0B => some .len
  | 0x0C => some .pal
  | 0x0D => some .dst
  | 0x0E => some .quad
  | 0x0F => some .color
  | 0x10 => some (.chunkMagic 0)
  | 0x11 => some (.chunkMagic 1)
  | 0x12 => some (.chunkMagic 2)
  | 0x13 => some (.chunkMagic 3)
  | 0x14 => some (.chunkLen 0)
  | 0x15 => some (.chunkLen 1)
  | 0x16 => some (.chunkLen 2)
  | 0x17 => some (.chunkLen 3)
  | _ => none

/-- The word address of a register (the table of R21). -/
def regAddr : Reg → Nat
  | .id => 0x00
  | .ctrl => 0x01
  | .status => 0x02
  | .err => 0x03
  | .errInfo => 0x04
  | .errCmd => 0x05
  | .cmd => 0x06
  | .result => 0x07
  | .src => 0x08
  | .width => 0x09
  | .height => 0x0A
  | .len => 0x0B
  | .pal => 0x0C
  | .dst => 0x0D
  | .quad => 0x0E
  | .color => 0x0F
  | .chunkMagic q => 0x10 + q.val
  | .chunkLen q => 0x14 + q.val

/-- The column "access" of R21. -/
def regAccess : Reg → Access
  | .id => .ro
  | .ctrl => .wo
  | .status => .ro
  | .err => .ro
  | .errInfo => .ro
  | .errCmd => .ro
  | .cmd => .wo
  | .result => .ro
  | .src => .rw
  | .width => .rw
  | .height => .rw
  | .len => .rw
  | .pal => .rw
  | .dst => .rw
  | .quad => .rw
  | .color => .rw
  | .chunkMagic _ => .rw
  | .chunkLen _ => .rw

/-- The value a register reads as: its 32 bits, the constant of ID, and 0 for the write-only CTRL and CMD (R21 to R33). -/
def readReg (s : State) : Reg → Word
  | .id => idWord
  | .ctrl => 0
  | .status => statusWord s
  | .err => errWord s
  | .errInfo => s.errInfo
  | .errCmd => s.errCmd
  | .cmd => 0
  | .result => s.result
  | .src => s.src
  | .width => s.width
  | .height => s.height
  | .len => s.len
  | .pal => s.pal
  | .dst => s.dst
  | .quad => s.quad
  | .color => s.color
  | .chunkMagic q => slotGet s.chunkMagic q
  | .chunkLen q => slotGet s.chunkLen q

/-- A host write of a register that is readable and writable: all 32 bits are kept (R30, R32, R33). The others keep nothing
of a host write. -/
def writeReg (s : State) (r : Reg) (v : Word) : State :=
  match r with
  | .id => s
  | .ctrl => s
  | .status => s
  | .err => s
  | .errInfo => s
  | .errCmd => s
  | .cmd => s
  | .result => s
  | .src => { s with src := v }
  | .width => { s with width := v }
  | .height => { s with height := v }
  | .len => { s with len := v }
  | .pal => { s with pal := v }
  | .dst => { s with dst := v }
  | .quad => { s with quad := v }
  | .color => { s with color := v }
  | .chunkMagic q => { s with chunkMagic := slotSet s.chunkMagic q v }
  | .chunkLen q => { s with chunkLen := slotSet s.chunkLen q v }

/-! ### The address map (R62) -/

/-- The element a word address names, if it is mapped (the table of R62). -/
def elementAt (c : Cfg) (a : Nat) : Option Element :=
  if a < 0x100 then (regAt a).map .reg
  else if a < 0x120 then some (.pal ((a - 0x100) / 4) ((a - 0x100) % 4))
  else if 0x1000 ≤ a ∧ a < 0x2000 then
    if (a - 0x1000) % 0x400 < qw c * qh c then
      some (.chunk (Fin.ofNat 4 ((a - 0x1000) / 0x400)) ((a - 0x1000) % 0x400))
    else none
  else if 0x2000 ≤ a ∧ a < 0x2000 + c.bgW * c.bgH then some (.bg (a - 0x2000))
  else if 0x4000 ≤ a ∧ a < 0x4000 + 16 * c.tileN then some (.tile ((a - 0x4000) / 16) ((a - 0x4000) % 16))
  else if 0x10000 ≤ a ∧ a < 0x10000 + c.pixN then some (.pix (a - 0x10000))
  else none

/-- The word address of an element: `addr()` of R96 (the table of R62). -/
def elementAddr : Element → Nat
  | .reg r => regAddr r
  | .pal p i => 0x100 + palIndex p i
  | .chunk q i => 0x1000 + chunkIndex q i
  | .bg i => 0x2000 + i
  | .tile t b => 0x4000 + tileIndex t b
  | .pix i => 0x10000 + i

/-- The elements that exist in a configuration (R21, R35, R36, R38, R39, R40). -/
def elementExists (c : Cfg) : Element → Bool
  | .reg _ => true
  | .pal p i => decide (p < 8) && decide (i < 4)
  | .chunk _ i => decide (i < qw c * qh c)
  | .bg i => decide (i < c.bgW * c.bgH)
  | .tile t b => decide (t < c.tileN) && decide (b < 16)
  | .pix i => decide (i < c.pixN)

/-- The host's access to an element (R21, R62, R64). -/
def elementAccess : Element → Access
  | .reg r => regAccess r
  | .pal _ _ => .rw
  | .chunk _ _ => .rw
  | .bg _ => .ro
  | .tile _ _ => .ro
  | .pix _ => .rw

/-- `zext_32(element)` (R61). -/
def readElement (s : State) : Element → Word
  | .reg r => readReg s r
  | .pal p i => readPal s p i
  | .chunk q i => zext 32 (readChunk s q i)
  | .bg i => zext 32 (readBg s i)
  | .tile t b => zext 32 (readTile s t b)
  | .pix i => readPix s i

/-- `element <- trunc_w(v)` (R61), for the elements the host can write; the others stay. -/
def writeElement (s : State) (e : Element) (v : Word) : State :=
  match e with
  | .reg r => writeReg s r v
  | .pal p i => { s with palTable := memInsert s.palTable (palIndex p i) v }
  | .chunk q i => { s with chunk := memInsert s.chunk (chunkIndex q i) (truncWord 8 v) }
  | .bg _ => s
  | .tile _ _ => s
  | .pix i => { s with pix := memInsert s.pix i v }

/-! ### Responses, reset, fault entry -/

/-- Answer a transaction (R60). -/
def respond (a : Answer) (s : State) : State := { s with answer := some a }

/-- The reset action of R221: every register and every byte of TILE is 0, the contents of PIX, PAL, CHUNK and BG are drawn
anew (log 6), and no record of a fault is left. The configuration and the host's transactions are not state of the
hardware (R20) and stay. -/
def resetAction (s : State) : State :=
  { State.reset with cfg := s.cfg, draw := s.draw + 1, host := s.host }

/-- Fault entry (R200), from the state `t` the command leaves, which is the state before it but for FIND's sentinel: record
the fault of the command word `w`, and answer ERROR. -/
def faultEntry (w : Word) (f : Raise) (t : State) : State :=
  respond (.write .error)
    { t with fault := true, err := truncNat 8 (faultNumber f.code), errInfo := truncNat 32 f.info, errCmd := w }

/-- How the pseudocode of a command ends (R13, R98): with its writes to commit, or with a fault and what is committed even
so (R111: FIND's sentinel; nothing for every other command). -/
inductive Ending where
  | done (t : State)
  | raised (t : State) (f : Raise)
  deriving DecidableEq, Repr

/-- The frame of a command (R98): in the FAULTED state it is refused (R203); else its pseudocode runs, its writes are
committed and the write answers OK, or the fault is entered. `w` is the command word. -/
def runCommand (w : Word) (body : State → Ending) (s : State) : State :=
  if s.fault then respond (.write .error) s
  else
    match body s with
    | .done t => respond (.write .ok) t
    | .raised t f => faultEntry w f t

/-- Commit a result (R29). -/
def commitResult (n : Nat) (s : State) : State := { s with result := truncNat 32 n }

/-- Commit writes of TILE (R38). -/
def commitTiles (ws : List (Nat × Byte)) (s : State) : State := { s with tile := tileInsertAll s.tile ws }

/-- Commit the contents of BG (R40). -/
def commitBg (m : Memory 16) (s : State) : State := { s with bg := m }

end Sys2Proof.Machine
end

