-- ==== Sys2Proof/Machine/Operands.lean ====
section
/-! DEFINITION. What the commands share in reading their operands: an operand register is taken as a natural number
(30_encoding.md R92). The fault of an operand out of range (60_exceptions.md R199), the palette indexer (40_palette_find.md
R110), occupancy (43_autotile.md R142) and the geometry of the quadrants (10_state.md R41). -/

namespace Sys2Proof.Machine

/-- `Fault(OperandRange, n)`: 0 PAL, 1 source extent, 2 destination extent, 3 QUAD (R199). -/
def operandRange (n : Nat) : Raise := ⟨.operandRange, n⟩

/-- `find_index(p, colour)` of R110: the lowest index whose colour is equal in all 32 bits, 4 when there is none. -/
def findIndex (s : State) (p : Nat) (colour : Word) : Nat :=
  ((List.range 4).find? fun i => readPal s p i == colour).getD 4

/-- A pixel whose colour is not in the palette (R120, R192). -/
def badPixel (s : State) (p a : Nat) : Bool := findIndex s p (readPix s a) == 4

/-- `occ(q, t, c)` of R142, for any integers t and c: inside the quadrant and the character '1'. -/
def occ (s : State) (q : Fin 4) (t c : Int) : Bool :=
  decide (0 ≤ t) && decide (t < qh s.cfg.toCfg) && (decide (0 ≤ c) && decide (c < qw s.cfg.toCfg))
    && readChunk s q (t.toNat * qw s.cfg.toCfg + c.toNat) == 0x31

/-- The quadrant row `qr = q[1:1]`, 0 the lower half (R41). -/
def quadRow (q : Fin 4) : Nat := q.val / 2 % 2

/-- The quadrant column `qc = q[0:0]`, 0 the left (R41). -/
def quadCol (q : Fin 4) : Nat := q.val % 2

/-- `START(q) = R0(q)*BG_W + C0(q)` with `(R0, C0) = ((1-qr)*QH, qc*QW)` (R41). -/
def quadStart (c : Cfg) (q : Fin 4) : Nat := (1 - quadRow q) * qh c * c.bgW + quadCol q * qw c

/-- The number in BG of cell (t, c) of quadrant q: `START(q) + t*BG_W + c` (R41). -/
def cellIndex (cf : Cfg) (q : Fin 4) (t c : Nat) : Nat := quadStart cf q + t * cf.bgW + c

/-- The cells (t, c) of a quadrant in the order of the loops of R152 and R170: rows from the top, columns from the left. -/
def quadCells (c : Cfg) : List (Nat × Nat) :=
  (List.range (qh c)).flatMap fun t => (List.range (qw c)).map fun col => (t, col)

/-- The four slots in the order 0, 1, 2, 3. -/
def slots : List (Fin 4) := [0, 1, 2, 3]

end Sys2Proof.Machine
end

