-- ==== Sys2Proof/Machine/Autotile.lean ====
section
/-! DEFINITION. The autotiler and AUTOTILE (43_autotile.md R140 to R154). -/

namespace Sys2Proof.Machine

/-- The position class of cell (t, c), the first that applies (R143). -/
def posClass (cf : Cfg) (t c : Nat) : PosClass :=
  if t = 0 then .topRow
  else if t = qh cf - 1 then .botRow
  else if c = 0 then .leftCol
  else if c = qw cf - 1 then .rightCol
  else .interior

/-- The neighbour mask `m = U + 2*D + 4*L + 8*R` of cell (t, c) of quadrant q (R144). -/
def neighbourMask (s : State) (q : Fin 4) (t c : Nat) : Nat :=
  (occ s q (t - 1 : Int) c).toNat + 2 * (occ s q (t + 1 : Int) c).toNat
    + 4 * (occ s q t (c - 1 : Int)).toNat + 8 * (occ s q t (c + 1 : Int)).toNat

/-- The variant of cell (t, c) of quadrant q: `LUT[class(t, c)][m]` (R150). -/
def cellVariant (s : State) (q : Fin 4) (t c : Nat) : Variant :=
  lutEntry s.cfg.lut (posClass s.cfg.toCfg t c) (neighbourMask s q t c)

/-- The cell value of R151. -/
def cellValue (s : State) (q : Fin 4) (t c : Nat) : BgCell :=
  if occ s q t c then bgCell s.cfg.unlitPal (variantTileOf s.cfg.variantTile (cellVariant s q t c))
  else bgCell s.cfg.groundPal s.cfg.groundTile

/-- The expected identifier of a slot: "Q_LL", "Q_LR", "Q_UL", "Q_UR" (R32, R70, R152). -/
def expectedMagic (q : Fin 4) : Word :=
  match q with
  | 0 => identifier 0x51 0x5F 0x4C 0x4C
  | 1 => identifier 0x51 0x5F 0x4C 0x52
  | 2 => identifier 0x51 0x5F 0x55 0x4C
  | 3 => identifier 0x51 0x5F 0x55 0x52

/-- The tests of the slots in order, the identifier before the length; the first that fails (R152, R195, R196). -/
def checkSlots (s : State) : List (Fin 4) → Option Raise
  | [] => none
  | q :: qs =>
    if slotGet s.chunkMagic q ≠ expectedMagic q then some ⟨.chunkMagicMismatch, q.val⟩
    else if (slotGet s.chunkLen q).toNat ≠ qw s.cfg.toCfg * qh s.cfg.toCfg then some ⟨.chunkSizeMismatch, q.val⟩
    else checkSlots s qs

/-- The writes of BG in the order of the loops of R152. -/
def autotileWrites (s : State) : List (Nat × BgCell) :=
  slots.flatMap fun q =>
    (quadCells s.cfg.toCfg).map fun tc => (cellIndex s.cfg.toCfg q tc.1 tc.2, cellValue s q tc.1 tc.2)

/-- The number of occupied cells of a quadrant. -/
def occupiedCount (s : State) (q : Fin 4) : Nat := (quadCells s.cfg.toCfg).countP fun tc => occ s q tc.1 tc.2

/-- The pseudocode of AUTOTILE (R152). -/
def autotileBody (s : State) : Ending :=
  match checkSlots s slots with
  | some f => .raised s f
  | none =>
    .done (commitResult (slots.map (occupiedCount s)).sum (commitBg (memInsertAll s.bg (autotileWrites s)) s))

/-- AUTOTILE (R152). -/
def execAutotile (s : State) : Host.Outcome State Fault Refusal :=
  .next (runCommand (encode .autotile) autotileBody s)

end Sys2Proof.Machine
end

