-- ==== Sys2Proof/Machine/Illum.lean ====
section
/-! DEFINITION. The lighting remapper and ILLUM (44_illuminate.md R170, R171). -/

namespace Sys2Proof.Machine

/-- The numbers in BG of the occupied cells of quadrant q, in the order of the loops of R170. -/
def litCells (s : State) (q : Fin 4) : List Nat :=
  ((quadCells s.cfg.toCfg).filter fun tc => occ s q tc.1 tc.2).map fun tc => cellIndex s.cfg.toCfg q tc.1 tc.2

/-- `BG[a] <- LIT_PAL*256 + (BG[a] mod 256)`, one read-modify-write (R75 d, R170). -/
def lightCell (s : State) (m : Memory 16) (a : Nat) : Memory 16 :=
  memInsert m a (truncNat 16 (s.cfg.litPal.toNat * 256 + (bgLookup s.draw m a).toNat % 256))

/-- The pseudocode of ILLUM (R170). -/
def illumBody (s : State) : Ending :=
  if 3 < s.quad.toNat then .raised s (operandRange 3)
  else
    let cells := litCells s (Fin.ofNat 4 s.quad.toNat)
    .done (commitResult cells.length (commitBg (cells.foldl (lightCell s) s.bg) s))

/-- ILLUM (R170). -/
def execIllum (s : State) : Host.Outcome State Fault Refusal := .next (runCommand (encode .illum) illumBody s)

end Sys2Proof.Machine
end

