-- ==== Sys2Proof/Machine/Packer.lean ====
section
/-! DEFINITION. The tile packer and PACK (41_tile_pack.md R120, R121). -/

namespace Sys2Proof.Machine

/-- The pixels of a cell in scan order: row by row, column by column (R120). `addr r c` is the number in PIX of pixel
(r, c). -/
def scanOrder (addr : Nat → Nat → Nat) : List Nat :=
  (List.range 8).flatMap fun r => (List.range 8).map fun c => addr r c

/-- Byte r of one plane: the sum over the columns of the plane's bit of the pixel's index, times `2^c` (R120). -/
def planeByte (bitOf : Nat → Nat) (index : Nat → Nat) : Byte :=
  truncNat 8 ((List.range 8).map fun c => bitOf (index c) * 2 ^ c).sum

/-- The 16 bytes of a tile: rows 0 to 7 of plane `bit0`, then rows 0 to 7 of plane `bit1` (R68, R120). -/
def tileBytes (s : State) (p : Nat) (addr : Nat → Nat → Nat) : List Byte :=
  let index := fun r c => findIndex s p (readPix s (addr r c))
  (List.range 8).map (fun r => planeByte (fun i => i % 2) (index r))
    ++ (List.range 8).map (fun r => planeByte (fun i => i / 2 % 2) (index r))

/-- `pack_cell(p, addr)` of R120: the 16 bytes, or the fault of the first pixel in scan order whose colour is not in the
palette. -/
def packCell (s : State) (p : Nat) (addr : Nat → Nat → Nat) : Except Raise (List Byte) :=
  match (scanOrder addr).find? (badPixel s p) with
  | some a => .error ⟨.colorNotInPalette, a⟩
  | none => .ok (tileBytes s p addr)

/-- The writes `TILE[t][b] <- B[b]` for b in 0..15. -/
def tileWrites (t : Nat) (bytes : List Byte) : List (Nat × Byte) :=
  (List.range 16).map fun b => (tileIndex t b, bytes.getD b 0)

/-- The pseudocode of PACK (R121). -/
def packBody (s : State) : Ending :=
  if s.len.toNat ≠ 64 then .raised s ⟨.invalidTileSize, s.len.toNat⟩
  else if 7 < s.pal.toNat then .raised s (operandRange 0)
  else if s.cfg.pixN < s.src.toNat + 64 then .raised s (operandRange 1)
  else if s.cfg.tileN ≤ s.dst.toNat then .raised s (operandRange 2)
  else
    match packCell s s.pal.toNat (fun r c => s.src.toNat + r * 8 + c) with
    | .error f => .raised s f
    | .ok bytes => .done (commitResult 1 (commitTiles (tileWrites s.dst.toNat bytes) s))

/-- PACK (R121). -/
def execPack (s : State) : Host.Outcome State Fault Refusal := .next (runCommand (encode .pack) packBody s)

end Sys2Proof.Machine
end

