-- ==== Sys2Proof/Machine/Palette.lean ====
section
/-! DEFINITION. FIND (40_palette_find.md R111). -/

namespace Sys2Proof.Machine

/-- The pseudocode of FIND (R111). RESULT is committed even when the colour is not found, and then the fault is raised. -/
def findBody (s : State) : Ending :=
  if 7 < s.pal.toNat then .raised s (operandRange 0)
  else if findIndex s s.pal.toNat s.color = 4 then .raised (commitResult 4 s) ⟨.colorNotInPalette, s.color.toNat⟩
  else .done (commitResult (findIndex s s.pal.toNat s.color) s)

/-- FIND (R111). -/
def execFind (s : State) : Host.Outcome State Fault Refusal := .next (runCommand (encode .find) findBody s)

end Sys2Proof.Machine
end

