-- ==== Sys2Proof/Machine/Slicer.lean ====
section
/-! DEFINITION. The spritesheet slicer and SLICE (42_sheet_slice.md R130, R131). -/

namespace Sys2Proof.Machine

/-- The number in PIX of pixel (r, c) of cell k of the sheet: cell column `k mod CW`, cell row `CH - 1 - (k div CW)`
counted from buffer row 0, and tile row r is buffer row `8*cy + r` (R131). -/
def sheetAddr (s : State) (k r c : Nat) : Nat :=
  let cw := s.width.toNat / 8
  let ch := s.height.toNat / 8
  s.src.toNat + (8 * (ch - 1 - k / cw) + r) * s.width.toNat + 8 * (k % cw) + c

/-- The number of cells `n = CW*CH` (R130). -/
def sheetCells (s : State) : Nat := (s.width.toNat / 8) * (s.height.toNat / 8)

/-- `T[k] = pack_cell(...)` for the cells `ks` in order, or the first fault met (R131). -/
def packCells (s : State) (p : Nat) : List Nat → Except Raise (List (List Byte))
  | [] => .ok []
  | k :: ks =>
    match packCell s p (sheetAddr s k) with
    | .error f => .error f
    | .ok bytes =>
      match packCells s p ks with
      | .error f => .error f
      | .ok rest => .ok (bytes :: rest)

/-- The writes `TILE[t + k][b] <- T[k][b]` for the tiles in order, the first at `t` (R131). -/
def sheetWrites (t : Nat) : List (List Byte) → List (Nat × Byte)
  | [] => []
  | bytes :: rest => tileWrites t bytes ++ sheetWrites (t + 1) rest

/-- The pseudocode of SLICE (R131). The products are of natural numbers and do not wrap (R9). -/
def sliceBody (s : State) : Ending :=
  if s.width.toNat % 8 ≠ 0 then .raised s ⟨.invalidSpritesheetDimensions, 0⟩
  else if s.height.toNat % 8 ≠ 0 then .raised s ⟨.invalidSpritesheetDimensions, 1⟩
  else if 7 < s.pal.toNat then .raised s (operandRange 0)
  else if s.cfg.pixN < s.src.toNat + s.width.toNat * s.height.toNat then .raised s (operandRange 1)
  else if s.cfg.tileN < s.dst.toNat + sheetCells s then .raised s (operandRange 2)
  else
    match packCells s s.pal.toNat (List.range (sheetCells s)) with
    | .error f => .raised s f
    | .ok tiles => .done (commitResult (sheetCells s) (commitTiles (sheetWrites s.dst.toNat tiles) s))

/-- SLICE (R131). -/
def execSlice (s : State) : Host.Outcome State Fault Refusal := .next (runCommand (encode .slice) sliceBody s)

end Sys2Proof.Machine
end

