-- ==== Sys2Proof/Machine/System.lean ====
section
/-! DEFINITION. NOP (45_system.md R180), the illegal command words (60_exceptions.md R198) and the soft reset by a CTRL
write (R23, R181). -/

namespace Sys2Proof.Machine

/-- The pseudocode of NOP: nothing (R180). -/
def nopBody (s : State) : Ending := .done s

/-- NOP (R180). -/
def execNop (s : State) : Host.Outcome State Fault Refusal := .next (runCommand (encode .nop) nopBody s)

/-- A CMD write of an illegal word `v`: `raise Fault(IllegalCommand, v)` in a state with FAULT = 0 (R93, R98, R198). -/
def illegalCommand (v : Word) (s : State) : State :=
  runCommand v (fun s => .raised s ⟨.illegalCommand, v.toNat⟩) s

/-- A CTRL write: bit 0 equal to 1 performs the reset, else nothing changes; both answer OK (R23, R181). -/
def writeControl (v : Word) (s : State) : State :=
  respond (.write .ok) (if bitAt v 0 = 1 then resetAction s else s)

end Sys2Proof.Machine
end

