-- ==== Sys2Proof/Machine/Dispatch.lean ====
section
/-! DEFINITION. One arm for each command: the command's meaning. -/

namespace Sys2Proof.Machine

/-- Execute a command (30_encoding.md R98, steps 1 and 3 to 5). -/
def exec (i : Instr) (s : State) : Host.Outcome State Fault Refusal :=
  match i with
  | .nop => Sys2Proof.Machine.execNop s
  | .find => Sys2Proof.Machine.execFind s
  | .pack => Sys2Proof.Machine.execPack s
  | .slice => Sys2Proof.Machine.execSlice s
  | .autotile => Sys2Proof.Machine.execAutotile s
  | .illum => Sys2Proof.Machine.execIllum s

end Sys2Proof.Machine
end

