-- ==== Sys2Proof/Machine/HostPort.lean ====
section
/-! DEFINITION. The host port (20_memory.md R60 to R66): the meaning of a host read, a host write, a CMD write and the
hardware reset. -/

namespace Sys2Proof.Machine

/-- `HostRead(a)`: the response and the data of R61. -/
def hostRead (s : State) (a : Word) : Answer :=
  match elementAt s.cfg.toCfg a.toNat with
  | none => .read .error 0
  | some e =>
    match elementAccess e with
    | .rw => .read .ok (readElement s e)
    | .ro => .read .ok (readElement s e)
    | .wo => .read .ok 0

/-- `HostWrite(a, v)` to anything but CMD (R61): a CTRL write acts (R23), a readable and writable element takes the low bits
of `v`, a read-only element or an unmapped address answers ERROR and nothing changes (R65). -/
def hostWrite (s : State) (a v : Word) : State :=
  match elementAt s.cfg.toCfg a.toNat with
  | none => respond (.write .error) s
  | some (.reg .ctrl) => writeControl v s
  | some e =>
    match elementAccess e with
    | .rw => respond (.write .ok) (writeElement s e v)
    | .ro => respond (.write .error) s
    | .wo => respond (.write .ok) s

/-- A CMD write (R28, R98): decode the word, and execute the command or raise IllegalCommand. Both refuse in the FAULTED
state (step 1; log 11). -/
def commandWrite (v : Word) (s : State) : Host.Outcome State Fault Refusal :=
  match decode v with
  | .command i => exec i s
  | .illegalCommand w => .next (illegalCommand w s)

/-- The hardware reset (R220): the reset action; no transaction answers (log 10). -/
def hardwareReset (s : State) : State := resetAction s

/-- Does a write to this address write CMD? -/
def namesCommand (s : State) (a : Word) : Bool := elementAt s.cfg.toCfg a.toNat == some (.reg .cmd)

/-- Perform one host transaction, completely (R60, R75). -/
def transact (t : Transaction) (s : State) : Host.Outcome State Fault Refusal :=
  match t with
  | .read a => .next (respond (hostRead s a) s)
  | .write a v => if namesCommand s a then commandWrite v s else .next (hostWrite s a v)
  | .resetPin => .next (hardwareReset s)

/-- The CMD write of the word whose bits are `w`, of which a table row gives `nbits` (log 18). -/
def fetchTransaction (nbits w : Nat) : Transaction :=
  .write (BitVec.ofNat 32 (regAddr .cmd)) (BitVec.ofNat 32 (w % 2 ^ nbits))

end Sys2Proof.Machine
end

