-- ==== Sys2Proof/Machine/Step.lean ====
section
/-! DEFINITION. One step: the next host transaction. There is no program counter and no fetch (R34, R77); the order of the
host's transactions is the order of execution (R60, R75). -/

namespace Sys2Proof.Machine

/-- Perform the next transaction of the host; with none pending the TBPU waits and nothing changes (R206; log 2). -/
def step (s : State) : Host.Outcome State Fault Refusal :=
  match s.host with
  | [] => .next s
  | t :: rest => transact t { s with host := rest }

/-- The host issues, as its very next transaction, the CMD write of the word `w` (log 1, log 18). -/
def State.withFetchWord (s : State) (nbits w : Nat) : State :=
  { s with host := fetchTransaction nbits w :: s.host }

end Sys2Proof.Machine
end

