-- ==== Sys2Proof/Machine/Assembler.lean ====
section
/-! DEFINITION. The host programs of 30_encoding.md R96 and R97, as abstract syntax: one line is one host transaction and
the response it must draw; the pseudo-instructions are lists of lines (log 14). -/

namespace Sys2Proof.Machine

/-- The target of a line: a register or memory element by name, or a numeric word address (R96). -/
inductive Target where
  | element (e : Element)
  | address (a : Word)
  deriving DecidableEq, Repr

/-- `addr(<target>)`, the word address of a target (R96). For a target that names no existing element it is the number the
row's formula of R62 gives, cut to 32 bits: the model's choice (log 22). -/
def targetAddr : Target → Word
  | .element e => truncNat 32 (elementAddr e)
  | .address a => a

/-- A line of a host program (R96). -/
inductive Line where
  /-- `WR target, value`: the response must be OK. -/
  | wr (t : Target) (v : Word)
  /-- `WR! target, value`: the response must be ERROR. -/
  | wrError (t : Target) (v : Word)
  /-- `RD target`: the response must be OK. -/
  | rd (t : Target)
  /-- `RD target = value`: the response must be OK and the data must be the value. -/
  | rdEqual (t : Target) (v : Word)
  /-- `RD! target`: the response must be ERROR. -/
  | rdError (t : Target)
  deriving DecidableEq, Repr

/-- The transaction of a line, its encoding (R96). -/
def lineTransaction : Line → Transaction
  | .wr t v => .write (targetAddr t) v
  | .wrError t v => .write (targetAddr t) v
  | .rd t => .read (targetAddr t)
  | .rdEqual t _ => .read (targetAddr t)
  | .rdError t => .read (targetAddr t)

/-- Does the answer of its transaction meet what the line demands (R96)? -/
def lineAccepts (l : Line) (a : Answer) : Bool :=
  match l, a with
  | .wr _ _, .write r => r == .ok
  | .wrError _ _, .write r => r == .error
  | .rd _, .read r _ => r == .ok
  | .rdEqual _ v, .read r d => r == .ok && d == v
  | .rdError _, .read r _ => r == .error
  | .wr _ _, .read _ _ => false
  | .wrError _ _, .read _ _ => false
  | .rd _, .write _ => false
  | .rdEqual _ _, .write _ => false
  | .rdError _, .write _ => false

/-- A command alone on a line (R97). -/
def commandLine (i : Instr) : Line := .wr (.element (.reg .cmd)) (encode i)

/-- A command with a trailing `!` (R97). -/
def commandErrorLine (i : Instr) : Line := .wrError (.element (.reg .cmd)) (encode i)

/-- `RESET` (R97). -/
def resetLine : Line := .wr (.element (.reg .ctrl)) 1

/-- `LDPIX base, v0, v1, ...` (R97). -/
def loadPixLines (base : Nat) (vs : List Word) : List Line :=
  vs.zipIdx.map fun vk => .wr (.element (.pix (base + vk.2))) vk.1

/-- `LDPAL p, c0, c1, c2, c3` (R97). -/
def loadPalLines (p : Nat) (c0 c1 c2 c3 : Word) : List Line :=
  [.wr (.element (.pal p 0)) c0, .wr (.element (.pal p 1)) c1, .wr (.element (.pal p 2)) c2, .wr (.element (.pal p 3)) c3]

/-- The value the host writes into CHUNK_LEN for a declared length. A length of 2^32 or more does not fit the register, and
the spec is silent on what the host then writes (R33, R153, R232; 91_not_in_source.md N12): the model's host writes
0xFFFFFFFF, which no configuration's `QW*QH` equals, so that such a length fails the test of AUTOTILE. DESIGN CHOICE
(log 21). -/
def declaredLength (n : Nat) : Word := if n < 2 ^ 32 then truncNat 32 n else 0xFFFFFFFF

/-- `LDCHUNK q, "<string>"`, the string as its character codes (R97). A string of 2^32 characters or more: log 21; one longer
than the chunk: log 22. -/
def loadChunkLines (q : Fin 4) (codes : List Byte) : List Line :=
  codes.zipIdx.map (fun ck => .wr (.element (.chunk q ck.2)) (zext 32 ck.1))
    ++ [.wr (.element (.reg (.chunkMagic q))) (expectedMagic q),
        .wr (.element (.reg (.chunkLen q))) (declaredLength codes.length)]

/-- The palette source image, 4 pixels wide and row-major: pixel i of row p goes to `PAL[p][i]` (70_reset_and_hazards.md
R231). An image of more than 32 pixels names elements that do not exist (log 22). -/
def loadPaletteImageLines (pixels : List Word) : List Line :=
  pixels.zipIdx.map fun vj => .wr (.element (.pal (vj.2 / 4) (vj.2 % 4))) vj.1

/-- A chunk of the level layout file, as the host reads it: the identifier, the declared length and the payload (R153,
R232). The width of the file's length is not settled (91_not_in_source.md N12), so the length is any number (log 21). -/
structure FileChunk where
  magic : Word
  length : Nat
  payload : List Byte
  deriving DecidableEq, Repr

/-- What the host writes for the chunk of slot q: the payload, the identifier read and the length declared (R230 (3)). A
declared length that CHUNK_LEN cannot hold is the model's choice (`declaredLength`, log 21), and so are the addresses of a
payload longer than the chunk (log 22). -/
def fileChunkLines (q : Fin 4) (k : FileChunk) : List Line :=
  k.payload.zipIdx.map (fun ck => .wr (.element (.chunk q ck.2)) (zext 32 ck.1))
    ++ [.wr (.element (.reg (.chunkMagic q))) k.magic, .wr (.element (.reg (.chunkLen q))) (declaredLength k.length)]

/-- The four chunks of the file, the k-th into slot k (R232). -/
def loadLevelLines (c0 c1 c2 c3 : FileChunk) : List Line :=
  fileChunkLines 0 c0 ++ fileChunkLines 1 c1 ++ fileChunkLines 2 c2 ++ fileChunkLines 3 c3

/-- Give the machine the transactions of a program to perform, after those it already has. -/
def issue (ls : List Line) (s : State) : State := { s with host := s.host ++ ls.map lineTransaction }

end Sys2Proof.Machine
end

