-- ==== Sys2Proof/Safety.lean ====
section
/-! DEFINITION. What claims about the machine are stated in: the invariant of the state (10_state.md R46, 60_exceptions.md
R191), the transactions of an admitted host program (20_memory.md R65) and the obligations of the host that the hardware
does not enforce (70_reset_and_hazards.md R230 to R236; log 15, log 23). -/

namespace Sys2Proof.Machine

/-- The fault record is one the machine can produce: all zero when FAULT = 0 (R46 a), else a code, an info and a command
word that belong together by the table of R191. Code 6 and codes from 9 up are not (R191, R197). -/
def faultRecordLegal (s : State) : Bool :=
  let cmd := s.errCmd.toNat
  let info := s.errInfo.toNat
  if s.fault then
    match s.err.toNat with
    | 1 => (cmd == 1 && s.result == 4) || ((cmd == 2 || cmd == 3) && decide (info < s.cfg.pixN))
    | 2 => cmd == 2 && info != 64
    | 3 => cmd == 3 && decide (info ≤ 1)
    | 4 => cmd == 4 && decide (info ≤ 3)
    | 5 => cmd == 4 && decide (info ≤ 3)
    | 7 => s.errInfo == s.errCmd && decide (5 < cmd)
    | 8 => (cmd == 1 && info == 0) || ((cmd == 2 || cmd == 3) && decide (info ≤ 2)) || (cmd == 5 && info == 3)
    | _ => false
  else s.err == 0 && s.errInfo == 0 && s.errCmd == 0

/-- Every listed element of the memory has a number that meets `p`. -/
abbrev Memory.within {w : Nat} (m : Memory w) (p : Nat → Prop) : Prop := ∀ e ∈ m, p e.1

/-- The invariant: each memory is in its canonical form and lists only elements that exist (R35 to R40), TILE lists no
zero byte, and the fault record is legal. -/
structure Inv (s : State) : Prop where
  pixWf : s.pix.wf
  palWf : s.palTable.wf
  chunkWf : s.chunk.wf
  tileWf : s.tile.wf
  bgWf : s.bg.wf
  pixWithin : s.pix.within fun i => i < s.cfg.pixN
  palWithin : s.palTable.within fun i => i < 32
  chunkWithin : s.chunk.within fun i => i < 0x1000 ∧ i % 0x400 < qw s.cfg.toCfg * qh s.cfg.toCfg
  tileWithin : s.tile.within fun i => i < 16 * s.cfg.tileN
  bgWithin : s.bg.within fun i => i < s.cfg.bgW * s.cfg.bgH
  tileNonzero : ∀ e ∈ s.tile, e.2 ≠ 0
  record : faultRecordLegal s = true

/-- The background map is decoded: every unoccupied cell holds the ground value, and every occupied cell the tile of its
variant with the unlit or the lit palette (R151, R170). -/
def MapDecoded (s : State) : Prop :=
  ∀ q t c, t < qh s.cfg.toCfg → c < qw s.cfg.toCfg →
    if occ s q t c then
      readBg s (cellIndex s.cfg.toCfg q t c) = bgCell s.cfg.unlitPal (variantTileOf s.cfg.variantTile (cellVariant s q t c))
        ∨ readBg s (cellIndex s.cfg.toCfg q t c)
            = bgCell s.cfg.litPal (variantTileOf s.cfg.variantTile (cellVariant s q t c))
    else readBg s (cellIndex s.cfg.toCfg q t c) = bgCell s.cfg.groundPal s.cfg.groundTile

/-- The background map is as AUTOTILE leaves it: every cell holds its value of R151, the occupied ones with the unlit
palette. -/
def MapUnlit (s : State) : Prop :=
  ∀ q t c, t < qh s.cfg.toCfg → c < qw s.cfg.toCfg → readBg s (cellIndex s.cfg.toCfg q t c) = cellValue s q t c

/-- A transaction an admitted host program may issue in this state: only a CMD write may draw ERROR (R65, U9). -/
def admittedTransaction (s : State) : Transaction → Bool
  | .read a => hostRead s a != .read .error 0
  | .write a v => namesCommand s a || (hostWrite s a v).answer == some (.write .ok)
  | .resetPin => true

/-- The next step of the machine belongs to an admitted host program (R65). -/
def admittedStep (s : State) : Bool :=
  match s.host with
  | [] => true
  | t :: _ => admittedTransaction s t

/-- Does the transaction reset the machine (R220)? -/
def resets (c : Cfg) : Transaction → Bool
  | .read _ => false
  | .write a v => elementAt c a.toNat == some (.reg .ctrl) && bitAt v 0 == 1
  | .resetPin => true

/-- Does the transaction issue this command (R91)? -/
def issues (c : Cfg) (i : Instr) : Transaction → Bool
  | .read _ => false
  | .write a v => elementAt c a.toNat == some (.reg .cmd) && v == encode i
  | .resetPin => false

/-- Does the transaction write an input of the autotiler: CHUNK, CHUNK_MAGIC or CHUNK_LEN (R235)? -/
def writesChunks (c : Cfg) : Transaction → Bool
  | .read _ => false
  | .write a _ =>
    match elementAt c a.toNat with
    | some (.chunk _ _) => true
    | some (.reg (.chunkMagic _)) => true
    | some (.reg (.chunkLen _)) => true
    | _ => false
  | .resetPin => false

/-- Does the transaction write the palette table (R236)? -/
def writesPalette (c : Cfg) : Transaction → Bool
  | .read _ => false
  | .write a _ =>
    match elementAt c a.toNat with
    | some (.pal _ _) => true
    | _ => false
  | .resetPin => false

/-- What the encoder promises of a payload: `QW*QH` characters, each '0' or '1' (R232). -/
def payloadPromised (c : Cfg) (payload : List Byte) : Bool :=
  payload.length == qw c * qh c && payload.all fun b => b == 0x30 || b == 0x31

/-- Has the host written the four colours of palette `p` since the last reset? -/
def paletteWritten (s : State) (p : Nat) : Bool :=
  (List.range 4).all fun i => (memLookup s.palTable (palIndex p i)).isSome

/-- The part of the host's obligation of R233 that the state shows: the ground, unlit and lit palettes are written, and the
tile table has the tiles at the indices of the variants and of the ground. That those tiles hold their pictures is the
renderer's matter. -/
def tablesReady (s : State) : Bool :=
  paletteWritten s s.cfg.groundPal.toNat && paletteWritten s s.cfg.unlitPal.toNat && paletteWritten s s.cfg.litPal.toNat
    && (List.range 9).all (fun v => decide ((variantTileOf s.cfg.variantTile (variantOfCode v)).toNat < s.cfg.tileN))
    && decide (s.cfg.groundTile.toNat < s.cfg.tileN)

/-- Does the transaction, which ended in the state `t`, complete an AUTOTILE ("a successful AUTOTILE", R234)? A faulted or
refused one leaves FAULT = 1 (R200, R203). -/
def completesAutotile (c : Cfg) (x : Transaction) (t : State) : Bool := issues c .autotile x && !t.fault

/-- The host's obligation of R234 and R235, for the transactions `ts` performed from the state `s`: each ILLUM follows an
AUTOTILE that completed, with no reset and no write of the chunks in between. `fresh` says whether the map is up to date
where the list begins. A write of the chunks with no ILLUM after it is taken for the load of a new level that R235 allows,
whose AUTOTILE is still to come (DESIGN CHOICE, log 23). -/
def lightsDecodedMap (fresh : Bool) (s : State) : List Transaction → Bool
  | [] => true
  | x :: ts =>
    match transact x s with
    | .next t =>
      if resets s.cfg.toCfg x || writesChunks s.cfg.toCfg x then lightsDecodedMap false t ts
      else if completesAutotile s.cfg.toCfg x t then lightsDecodedMap true t ts
      else (!issues s.cfg.toCfg .illum x || fresh) && lightsDecodedMap fresh t ts
    | .fault _ => false
    | .refused _ => false

/-- The host's obligation of R236: no PACK, no SLICE and no write of the palette table "once the renderer is live". `live`
says whether the renderer is live where the list begins. When it becomes live the spec does not say, the renderer being
out of scope (R5 b): that it does so with the first AUTOTILE issued, whether that completes or not, and ceases to be live at
a reset is the model's (DESIGN CHOICE, log 23). -/
def keepsTables (c : Cfg) (live : Bool) : List Transaction → Bool
  | [] => true
  | t :: ts =>
    if resets c t then keepsTables c false ts
    else if issues c .autotile t then keepsTables c true ts
    else (!live || !(issues c .pack t || issues c .slice t || writesPalette c t)) && keepsTables c live ts

/-- The host's obligation of R230 (1): a palette is written before a PACK or SLICE that uses it. `p` is the value of the
PAL register and `loaded` the elements of the palette table written so far where the list begins. -/
def loadsPaletteFirst (c : Cfg) (p : Nat) (loaded : List Nat) : List Transaction → Bool
  | [] => true
  | t :: ts =>
    if resets c t then loadsPaletteFirst c 0 [] ts
    else
      match t with
      | .read _ => loadsPaletteFirst c p loaded ts
      | .resetPin => loadsPaletteFirst c 0 [] ts
      | .write a v =>
        match elementAt c a.toNat with
        | some (.pal q i) => loadsPaletteFirst c p (palIndex q i :: loaded) ts
        | some (.reg .pal) => loadsPaletteFirst c v.toNat loaded ts
        | _ =>
          (!(issues c .pack t || issues c .slice t)
            || (List.range 4).all fun i => loaded.contains (palIndex p i))
            && loadsPaletteFirst c p loaded ts

end Sys2Proof.Machine
end

