-- ==== Sys2Proof/Certificates/Slice0/Obligations.lean ====
section
/-! DEFINITION. The statements for the provers. Each docstring names the rule of spec/ it formalises. Where a statement
writes out a whole state, the fields `cfg`, `draw`, `host` and `answer` are the model's own (log 1, log 3, log 4, log 8):
what it says of them is the model's choice, no rule's. -/

open Sys2Proof Sys2Proof.Machine

/-- The state `s` with the answer OK of a write. -/
def Sys2Proof.Machine.answeredOk (s : State) : State := { s with answer := some (.write .ok) }

/-- The state `s` with the answer ERROR of a write. -/
def Sys2Proof.Machine.answeredError (s : State) : State := { s with answer := some (.write .error) }

/-- The state after fault entry from `s` (R200), written out: the flag, the code, the info, the command word, the ERROR
response, and nothing else. -/
def Sys2Proof.Machine.recorded (s : State) (code : Byte) (info word : Word) : State :=
  { s with fault := true, err := code, errInfo := info, errCmd := word, answer := some (.write .error) }

/-- `i` is the palette index of the colour: the lowest index of the palette that holds it (R110). -/
def Sys2Proof.Machine.IsIndex (s : State) (p : Nat) (colour : Word) (i : Nat) : Prop :=
  i < 4 ∧ readPal s p i = colour ∧ ∀ j < i, readPal s p j ≠ colour

/-- Palette `p` has the colour at one of its four indices. -/
def Sys2Proof.Machine.InPalette (s : State) (p : Nat) (colour : Word) : Prop := ∃ i < 4, readPal s p i = colour

/-- The byte written out by R120: for each column c, bit c of bytes r and 8 + r of tile t. -/
def Sys2Proof.Machine.HoldsIndex (s : State) (t r c i : Nat) : Prop :=
  bitField (readTile s t r) c c = i % 2 ∧ bitField (readTile s t (8 + r)) c c = i / 2 % 2

/-- The number in PIX of pixel (r, c) of cell k of the sheet (R131), written out. -/
def Sys2Proof.Machine.sheetPixel (s : State) (k r c : Nat) : Nat :=
  s.src.toNat
    + (8 * (s.height.toNat / 8 - 1 - k / (s.width.toNat / 8)) + r) * s.width.toNat
    + 8 * (k % (s.width.toNat / 8)) + c

/-- The number in BG of cell (t, c) of quadrant q (R41), written out: row `(1-qr)*QH + t`, column `qc*QW + c`. -/
def Sys2Proof.Machine.mapCell (c : Cfg) (q : Fin 4) (t col : Nat) : Nat :=
  ((1 - q.val / 2) * qh c + t) * c.bgW + ((q.val % 2) * qw c + col)

/-- The identifiers of the four slots as register values (R32). -/
def Sys2Proof.Machine.slotWord : Fin 4 → Word
  | 0 => 0x4C4C5F51
  | 1 => 0x524C5F51
  | 2 => 0x4C555F51
  | 3 => 0x52555F51

/-- The tests of AUTOTILE pass for slot q: the identifier and the length (R152). -/
def Sys2Proof.Machine.SlotGood (s : State) (q : Fin 4) : Prop :=
  slotGet s.chunkMagic q = slotWord q ∧ (slotGet s.chunkLen q).toNat = qw s.cfg.toCfg * qh s.cfg.toCfg

/-- The transaction writes CTRL with bit 0 equal to 1, or is the hardware reset (R220). -/
def Sys2Proof.Machine.IsReset (t : Transaction) : Prop :=
  t = .resetPin ∨ ∃ v : Word, t = .write 0x01 v ∧ v.getLsbD 0 = true

/-! ### Encoding and decoding -/

/-- The opcode map of R91: each of the six words, both ways. -/
def Obligations.OpcodeMapWords : Prop :=
  (decode 0x00000000 = .command .nop ∧ encode .nop = 0x00000000)
    ∧ (decode 0x00000001 = .command .find ∧ encode .find = 0x00000001)
    ∧ (decode 0x00000002 = .command .pack ∧ encode .pack = 0x00000002)
    ∧ (decode 0x00000003 = .command .slice ∧ encode .slice = 0x00000003)
    ∧ (decode 0x00000004 = .command .autotile ∧ encode .autotile = 0x00000004)
    ∧ (decode 0x00000005 = .command .illum ∧ encode .illum = 0x00000005)

/-- R95: a word up to 5 is the command with that opcode, every other word is illegal; and "every other word" is what R93
says: bits 31:8 not all 0, or bits 7:0 above 5. -/
def Obligations.DecoderIsExact : Prop :=
  ∀ v : Word,
    (v.toNat ≤ 5 → ∃ i, decode v = .command i ∧ opcode i = v.toNat)
      ∧ (5 < v.toNat → decode v = .illegalCommand v)
      ∧ (5 < v.toNat ↔ v.extractLsb' 8 24 ≠ 0 ∨ 5 < (v.extractLsb' 0 8).toNat)

/-- Decoding the encoding of a well-formed command gives it back, and a word that decodes to a command is that command's
encoding (R91, R95). -/
def Obligations.DecodeEncodeAgree : Prop :=
  (∀ i : Instr, i.wf = true → decode (encode i) = .command i) ∧ ∀ (v : Word) (i : Instr), decode v = .command i → encode i = v

/-! ### The step and the host port -/

/-- R28, R98: when the next transaction writes CMD with the word of a command, the step is that command's execution, from
the state with the transaction taken off the queue. -/
def Obligations.StepRunsDecodedCommand : Prop :=
  ∀ (s : State) (v : Word) (rest : List Transaction) (i : Instr),
    s.host = .write 0x06 v :: rest → decode v = .command i → step s = exec i { s with host := rest }

/-- R198: an illegal word, written to CMD in a state with FAULT = 0, raises IllegalCommand (7) with the word as ERRINFO and
as ERRCMD. -/
def Obligations.StepIllegalWordFaults : Prop :=
  ∀ (s : State) (v : Word) (rest : List Transaction),
    s.host = .write 0x06 v :: rest → s.fault = false → v.extractLsb' 8 24 ≠ 0 ∨ 5 < (v.extractLsb' 0 8).toNat →
      step s = .next (recorded { s with host := rest } 7 v v)

/-- The FAULTED state: a CMD write, legal or illegal word alike, answers ERROR and changes nothing (first sentence of
R203). -/
def Obligations.FaultedRefusesCommandWrites : Prop :=
  ∀ (s : State) (v : Word) (rest : List Transaction),
    s.host = .write 0x06 v :: rest → s.fault = true → step s = .next (answeredError { s with host := rest })

/-- R61, column HostRead, over the map R62: OK and the element zero-extended, OK and 0 for a write-only register, ERROR and
0 for an address that no existing element has; a read changes no state. -/
def Obligations.HostReadFollowsTable : Prop :=
  ∀ (s : State) (a : Word) (rest : List Transaction), s.host = .read a :: rest →
    (∀ e, elementExists s.cfg.toCfg e = true → elementAddr e = a.toNat →
      step s = .next { s with
        host := rest
        answer := some (.read .ok (if elementAccess e = .wo then 0 else readElement s e)) })
    ∧ ((∀ e, elementExists s.cfg.toCfg e = true → elementAddr e ≠ a.toNat) →
      step s = .next { s with host := rest, answer := some (.read .error 0) })

/-- R61, column HostWrite, for a readable and writable element: the element takes the data cut to its width, the response is
OK, and every other element reads as before; in the FAULTED state too (R66). -/
def Obligations.HostWriteStoresElement : Prop :=
  ∀ (s : State) (a v : Word) (rest : List Transaction) (e : Element),
    s.host = .write a v :: rest → elementExists s.cfg.toCfg e = true → elementAddr e = a.toNat →
    elementAccess e = .rw →
      ∃ t, step s = .next t ∧ t.answer = some (.write .ok) ∧ t.host = rest ∧ t.cfg = s.cfg ∧ t.draw = s.draw
        ∧ t.fault = s.fault
        ∧ (readElement t e).toNat = (match e with | .chunk _ _ => v.toNat % 256 | _ => v.toNat)
        ∧ ∀ e', e' ≠ e → elementExists s.cfg.toCfg e' = true → readElement t e' = readElement s e'

/-- R65: an access to an unmapped address, or a write to a read-only register or element, answers ERROR and changes nothing;
FAULT in particular stays. -/
def Obligations.RefusedAccessChangesNothing : Prop :=
  ∀ (s : State) (a v : Word) (rest : List Transaction),
    ((∀ e, elementExists s.cfg.toCfg e = true → elementAddr e ≠ a.toNat) →
      (s.host = .read a :: rest → step s = .next { s with host := rest, answer := some (.read .error 0) })
      ∧ (s.host = .write a v :: rest → step s = .next (answeredError { s with host := rest })))
    ∧ ∀ e, elementExists s.cfg.toCfg e = true → elementAddr e = a.toNat → elementAccess e = .ro →
        s.host = .write a v :: rest → step s = .next (answeredError { s with host := rest })

/-- The address map of R62 in every legal configuration: an existing element has an address of the port, no two have the
same, and the decoder of addresses finds exactly them. -/
def Obligations.AddressMapIsExact : Prop :=
  ∀ c : LegalCfg,
    (∀ e, elementExists c.toCfg e = true → elementAddr e < 2 ^ 32 ∧ elementAt c.toCfg (elementAddr e) = some e)
      ∧ (∀ e e', elementExists c.toCfg e = true → elementExists c.toCfg e' = true → elementAddr e = elementAddr e' → e = e')
      ∧ ∀ a e, elementAt c.toCfg a = some e → elementExists c.toCfg e = true ∧ elementAddr e = a

/-- R96: `addr(<target>)` of an element is the address at which the map R62 finds it. -/
def Obligations.TargetsNameTheirElements : Prop :=
  ∀ (c : LegalCfg) (e : Element), elementExists c.toCfg e = true →
    elementAt c.toCfg (targetAddr (.element e)).toNat = some e

/-- The host's next transaction set by `withFetchWord` (log 1, log 18): the very next step runs that command, on the state
it was set in. -/
def Obligations.FetchWordRunsCommand : Prop :=
  ∀ (s : State) (i : Instr),
    step (s.withFetchWord 32 (encode i).toNat) = exec i s ∧ decodeTableWord 32 (encode i).toNat = some i

/-- R206: with no transaction pending the TBPU waits. That the step then changes nothing is the model's choice (log 2). -/
def Obligations.IdleStepChangesNothing : Prop := ∀ s : State, s.host = [] → step s = .next s

/-- Every step ends in a next state (R240: every command terminates; 93_implementation_defined.md: no behaviour is
`stuck`) and keeps the configuration (R7: immutable). What it does to the queue is the model's choice: it takes the next
transaction off a queue that has one (log 1), and none off an empty queue (log 2). -/
def Obligations.EveryStepCompletes : Prop :=
  ∀ s : State, ∃ t, step s = .next t ∧ t.host = s.host.tail ∧ t.cfg = s.cfg

/-! ### Reset -/

/-- R181: a write of CTRL with bit 0 equal to 1 performs the reset and answers OK, in any state; with bit 0 equal to 0 it
changes nothing and answers OK, whatever bits 31:1 are (R23). The state after the reset is written out; that the
configuration and the queue stay and the draw counter goes up by one is the model's choice (log 4, log 8). -/
def Obligations.ControlWriteResets : Prop :=
  ∀ (s : State) (v : Word) (rest : List Transaction), s.host = .write 0x01 v :: rest →
    (v.getLsbD 0 = true →
      step s = .next { State.reset with
        cfg := s.cfg, draw := s.draw + 1, host := rest, answer := some (.write .ok) })
    ∧ (v.getLsbD 0 = false → step s = .next (answeredOk { s with host := rest }))

/-- R220, R221: both reset causes leave every register but ID at 0, every byte of TILE 0 and `fault_o` 0; and nothing the
state held, its memories included, is left in the state after the reset: it depends on the configuration, the draw counter
and the queue alone, which is the model's form of "unspecified contents" (log 6, log 8). -/
def Obligations.ResetLeavesTheTable : Prop :=
  ∀ (s : State) (x : Transaction) (rest : List Transaction), IsReset x → s.host = x :: rest →
    (∃ t, step s = .next t ∧ faultPin t = false ∧ readElement t (.reg .id) = 0x54425031
      ∧ (∀ r, r ≠ .id → readElement t (.reg r) = 0)
      ∧ ∀ i b, readTile t i b = 0)
    ∧ ∀ s' : State, s'.host = x :: rest → s'.cfg = s.cfg → s'.draw = s.draw → step s' = step s

/-- The state right after reset (the table of R44): ID its constant, every other register 0, every tile byte 0,
`fault_o` 0. -/
def Obligations.ResetStateMeetsTable : Prop :=
  readReg State.reset .id = 0x54425031 ∧ (∀ r, r ≠ .id → readReg State.reset r = 0)
    ∧ (∀ t b, readTile State.reset t b = 0) ∧ faultPin State.reset = false

/-! ### The fault flag and the fault record -/

/-- R24, R25, R42: STATUS reads FAULT in bit 0 and 0 above it, ERR reads its code in bits 7:0 and 0 above it, and the pin
`fault_o` equals FAULT. -/
def Obligations.StatusWordsShowTheRecord : Prop :=
  ∀ s : State,
    (readReg s .status).toNat = (if s.fault then 1 else 0) ∧ (readReg s .err).toNat = s.err.toNat
      ∧ (faultPin s = true ↔ (readReg s .status).getLsbD 0 = true)

/-- R24: FAULT becomes 1 only when a CMD write answers ERROR, whose word is then ERRCMD; and it becomes 0 only by a
reset. -/
def Obligations.FaultFlagLifecycle : Prop :=
  ∀ s t : State, step s = .next t →
    (s.fault = false → t.fault = true →
      ∃ v rest, s.host = .write 0x06 v :: rest ∧ t.errCmd = v ∧ t.answer = some (.write .error))
    ∧ (s.fault = true → t.fault = false → ∃ x rest, s.host = x :: rest ∧ IsReset x)

/-- R200: faults are precise. A command that faults leaves the state before it plus the fault record and the ERROR
response; FIND's RESULT <- 4 on a colour it does not find is the one exception. -/
def Obligations.FaultsArePrecise : Prop :=
  ∀ (i : Instr) (s : State), s.fault = false →
    ∃ t, exec i s = .next t ∧ (t.fault = true →
      t = recorded { s with result := if i = .find ∧ t.err = 1 then 4 else s.result } t.err t.errInfo (encode i))

/-- R30, R31: no command changes an operand register, CHUNK_MAGIC, CHUNK_LEN, or a memory that is an input (PIX, PAL,
CHUNK), whether it completes, faults or is refused. -/
def Obligations.CommandsKeepTheirInputs : Prop :=
  ∀ (i : Instr) (s : State), ∃ t, exec i s = .next t ∧
    t = { s with
      fault := t.fault, err := t.err, errInfo := t.errInfo, errCmd := t.errCmd
      result := t.result, tile := t.tile, bg := t.bg, answer := t.answer }

/-- R31: a command ignores every register not listed for it, whatever its value: changing those registers before it changes
nothing else after it. -/
def Obligations.CommandsReadOnlyTheirOperands : Prop :=
  ∀ (s : State) (a b c d e f g h : Word) (p q : PerSlot),
    (∃ t, exec .nop s = .next t ∧
      exec .nop { s with src := a, width := b, height := c, len := d, pal := e, dst := f, quad := g, color := h, chunkMagic := p, chunkLen := q }
        = .next { t with src := a, width := b, height := c, len := d, pal := e, dst := f, quad := g, color := h, chunkMagic := p, chunkLen := q })
    ∧ (∃ t, exec .find s = .next t ∧
      exec .find { s with src := a, width := b, height := c, len := d, dst := f, quad := g, chunkMagic := p, chunkLen := q }
        = .next { t with src := a, width := b, height := c, len := d, dst := f, quad := g, chunkMagic := p, chunkLen := q })
    ∧ (∃ t, exec .pack s = .next t ∧
      exec .pack { s with width := b, height := c, quad := g, color := h, chunkMagic := p, chunkLen := q }
        = .next { t with width := b, height := c, quad := g, color := h, chunkMagic := p, chunkLen := q })
    ∧ (∃ t, exec .slice s = .next t ∧
      exec .slice { s with len := d, quad := g, color := h, chunkMagic := p, chunkLen := q }
        = .next { t with len := d, quad := g, color := h, chunkMagic := p, chunkLen := q })
    ∧ (∃ t, exec .autotile s = .next t ∧
      exec .autotile { s with src := a, width := b, height := c, len := d, pal := e, dst := f, quad := g, color := h }
        = .next { t with src := a, width := b, height := c, len := d, pal := e, dst := f, quad := g, color := h })
    ∧ (∃ t, exec .illum s = .next t ∧
      exec .illum { s with src := a, width := b, height := c, len := d, pal := e, dst := f, color := h, chunkMagic := p, chunkLen := q }
        = .next { t with src := a, width := b, height := c, len := d, pal := e, dst := f, color := h, chunkMagic := p, chunkLen := q })

/-! ### NOP and FIND -/

/-- R180: NOP changes nothing at all and answers OK; in the FAULTED state it is refused. -/
def Obligations.NopChangesNothing : Prop :=
  ∀ s : State, (s.fault = false → exec .nop s = .next (answeredOk s))
    ∧ (s.fault = true → exec .nop s = .next (answeredError s))

/-- R110, R111: FIND in a state with FAULT = 0. A palette number above 7 is OperandRange 0; else RESULT is the lowest index
that holds COLOR; else RESULT is 4 and the fault is ColorNotInPalette with COLOR. Nothing else changes. -/
def Obligations.FindFollowsRule : Prop :=
  ∀ s : State, s.fault = false →
    (7 < s.pal.toNat → exec .find s = .next (recorded s 8 0 1))
    ∧ (s.pal.toNat ≤ 7 → ∀ i, IsIndex s s.pal.toNat s.color i →
        exec .find s = .next (answeredOk { s with result := BitVec.ofNat 32 i }))
    ∧ (s.pal.toNat ≤ 7 → (∀ i < 4, readPal s s.pal.toNat i ≠ s.color) →
        exec .find s = .next (recorded { s with result := 4 } 1 s.color 1))

/-! ### PACK -/

/-- R120, R121, R122: PACK completes when LEN is 64, PAL is a palette, the 64 pixels lie in PIX, DST is a tile, and every
pixel's colour is in the palette. RESULT is 1; bit c of bytes r and 8 + r of TILE[DST] are the two bits of the index of
pixel (r, c); so unpacking gives the index back; no other byte of TILE and nothing else changes. The places of the planes and of the bits
are log 16. -/
def Obligations.PackWritesTheTile : Prop :=
  ∀ s : State, s.fault = false → s.len.toNat = 64 → s.pal.toNat ≤ 7 → s.src.toNat + 64 ≤ s.cfg.pixN →
    s.dst.toNat < s.cfg.tileN →
    (∀ r < 8, ∀ c < 8, InPalette s s.pal.toNat (readPix s (s.src.toNat + 8 * r + c))) →
      ∃ t, exec .pack s = .next t
        ∧ t = { s with result := 1, tile := t.tile, answer := some (.write .ok) }
        ∧ (∀ r < 8, ∀ c < 8, ∀ i, IsIndex s s.pal.toNat (readPix s (s.src.toNat + 8 * r + c)) i →
            HoldsIndex t s.dst.toNat r c i ∧ unpackPixel t s.dst.toNat r c = i)
        ∧ ∀ d b, b < 16 → d ≠ s.dst.toNat → readTile t d b = readTile s d b

/-- R123: PACK has one lane for each pixel: where two buffers hold the same colour at pixel (r, c), the two tiles have the
same bit c of byte r and the same bit c of byte 8 + r, whatever the other pixels are. The places of the planes and of the
bits are log 16. -/
def Obligations.PackLanesAreIndependent : Prop :=
  ∀ s s' t t' : State, s' = { s with pix := s'.pix } → exec .pack s = .next t → exec .pack s' = .next t' →
    t.fault = false → t'.fault = false →
      ∀ r < 8, ∀ c < 8, readPix s' (s.src.toNat + 8 * r + c) = readPix s (s.src.toNat + 8 * r + c) →
        bitField (readTile t' s.dst.toNat r) c c = bitField (readTile t s.dst.toNat r) c c
          ∧ bitField (readTile t' s.dst.toNat (8 + r)) c c = bitField (readTile t s.dst.toNat (8 + r)) c c

/-- R121, R201: the faults of PACK in the order of its tests, the last one for the first pixel in scan order (row by row,
column by column) whose colour is not in the palette. -/
def Obligations.PackFaultsInOrder : Prop :=
  ∀ s : State, s.fault = false →
    (s.len.toNat ≠ 64 → exec .pack s = .next (recorded s 2 s.len 2))
    ∧ (s.len.toNat = 64 → 7 < s.pal.toNat → exec .pack s = .next (recorded s 8 0 2))
    ∧ (s.len.toNat = 64 → s.pal.toNat ≤ 7 → s.cfg.pixN < s.src.toNat + 64 → exec .pack s = .next (recorded s 8 1 2))
    ∧ (s.len.toNat = 64 → s.pal.toNat ≤ 7 → s.src.toNat + 64 ≤ s.cfg.pixN → s.cfg.tileN ≤ s.dst.toNat →
        exec .pack s = .next (recorded s 8 2 2))
    ∧ (s.len.toNat = 64 → s.pal.toNat ≤ 7 → s.src.toNat + 64 ≤ s.cfg.pixN → s.dst.toNat < s.cfg.tileN →
        ∀ r < 8, ∀ c < 8, ¬InPalette s s.pal.toNat (readPix s (s.src.toNat + 8 * r + c)) →
        (∀ r' < 8, ∀ c' < 8, 8 * r' + c' < 8 * r + c →
          InPalette s s.pal.toNat (readPix s (s.src.toNat + 8 * r' + c'))) →
        exec .pack s = .next (recorded s 1 (BitVec.ofNat 32 (s.src.toNat + 8 * r + c)) 2))

/-- R193: InvalidTileSize is raised by PACK when LEN is not 64, with info = LEN, and by no other command. -/
def Obligations.InvalidTileSizeOnlyByPack : Prop :=
  ∀ s : State, s.fault = false →
    (s.len.toNat ≠ 64 → ∃ t, exec .pack s = .next t ∧ t.fault = true ∧ t.err = 2 ∧ t.errInfo = s.len)
    ∧ ∀ i t, exec i s = .next t → t.fault = true → t.err = 2 → i = .pack ∧ s.len.toNat ≠ 64

/-! ### SLICE -/

/-- R130, R131: SLICE completes when WIDTH and HEIGHT are multiples of 8 (0 is one), PAL is a palette, the sheet lies in PIX,
the n tiles lie in TILE, and every pixel's colour is in the palette. RESULT is n; tile DST + k holds cell k, cells running
left to right from the visually top row of cells down; no other byte of TILE and nothing else changes. The places of the
planes and of the bits are log 16. -/
def Obligations.SliceWritesTheTiles : Prop :=
  ∀ s : State, s.fault = false → s.width.toNat % 8 = 0 → s.height.toNat % 8 = 0 → s.pal.toNat ≤ 7 →
    s.src.toNat + s.width.toNat * s.height.toNat ≤ s.cfg.pixN →
    s.dst.toNat + s.width.toNat / 8 * (s.height.toNat / 8) ≤ s.cfg.tileN →
    (∀ y < s.height.toNat, ∀ x < s.width.toNat,
      InPalette s s.pal.toNat (readPix s (s.src.toNat + y * s.width.toNat + x))) →
      ∃ t, exec .slice s = .next t
        ∧ t = { s with
            result := BitVec.ofNat 32 (s.width.toNat / 8 * (s.height.toNat / 8))
            tile := t.tile
            answer := some (.write .ok) }
        ∧ (∀ k < s.width.toNat / 8 * (s.height.toNat / 8), ∀ r < 8, ∀ c < 8, ∀ i,
            IsIndex s s.pal.toNat (readPix s (sheetPixel s k r c)) i →
              HoldsIndex t (s.dst.toNat + k) r c i ∧ unpackPixel t (s.dst.toNat + k) r c = i)
        ∧ ∀ d b, b < 16 → ¬(s.dst.toNat ≤ d ∧ d < s.dst.toNat + s.width.toNat / 8 * (s.height.toNat / 8)) →
            readTile t d b = readTile s d b

/-- R131, R194, R201: the shape and range faults of SLICE in the order of its tests; the extents are of natural numbers and
do not wrap (R9). -/
def Obligations.SliceFaultsInOrder : Prop :=
  ∀ s : State, s.fault = false →
    (s.width.toNat % 8 ≠ 0 → exec .slice s = .next (recorded s 3 0 3))
    ∧ (s.width.toNat % 8 = 0 → s.height.toNat % 8 ≠ 0 → exec .slice s = .next (recorded s 3 1 3))
    ∧ (s.width.toNat % 8 = 0 → s.height.toNat % 8 = 0 → 7 < s.pal.toNat → exec .slice s = .next (recorded s 8 0 3))
    ∧ (s.width.toNat % 8 = 0 → s.height.toNat % 8 = 0 → s.pal.toNat ≤ 7 →
        s.cfg.pixN < s.src.toNat + s.width.toNat * s.height.toNat → exec .slice s = .next (recorded s 8 1 3))
    ∧ (s.width.toNat % 8 = 0 → s.height.toNat % 8 = 0 → s.pal.toNat ≤ 7 →
        s.src.toNat + s.width.toNat * s.height.toNat ≤ s.cfg.pixN →
        s.cfg.tileN < s.dst.toNat + s.width.toNat / 8 * (s.height.toNat / 8) →
        exec .slice s = .next (recorded s 8 2 3))

/-- R131, R192: when the tests of SLICE pass, the fault reported is that of the first pixel not in the palette, cells in the
order k = 0, 1, ... and each cell in scan order; nothing is written, even when earlier cells packed cleanly. -/
def Obligations.SliceReportsFirstBadPixel : Prop :=
  ∀ s : State, s.fault = false → s.width.toNat % 8 = 0 → s.height.toNat % 8 = 0 → s.pal.toNat ≤ 7 →
    s.src.toNat + s.width.toNat * s.height.toNat ≤ s.cfg.pixN →
    s.dst.toNat + s.width.toNat / 8 * (s.height.toNat / 8) ≤ s.cfg.tileN →
    ∀ k < s.width.toNat / 8 * (s.height.toNat / 8), ∀ r < 8, ∀ c < 8,
      ¬InPalette s s.pal.toNat (readPix s (sheetPixel s k r c)) →
      (∀ k', ∀ r' < 8, ∀ c' < 8, 64 * k' + 8 * r' + c' < 64 * k + 8 * r + c →
        InPalette s s.pal.toNat (readPix s (sheetPixel s k' r' c'))) →
      exec .slice s = .next (recorded s 1 (BitVec.ofNat 32 (sheetPixel s k r c)) 3)

/-- R131, corner cases: W = 0 or H = 0 passes the test of the shape, writes no tile and sets RESULT to 0. -/
def Obligations.EmptySheetWritesNothing : Prop :=
  ∀ s : State, s.fault = false → s.width.toNat % 8 = 0 → s.height.toNat % 8 = 0 → s.pal.toNat ≤ 7 →
    s.width.toNat = 0 ∨ s.height.toNat = 0 → s.src.toNat ≤ s.cfg.pixN → s.dst.toNat ≤ s.cfg.tileN →
      exec .slice s = .next (answeredOk { s with result := 0 })

/-- R131, corner cases: "a W = 8, H = 8 sheet gives exactly the tile PACK gives for the same SRC and PAL": where PACK
completes, SLICE of the one cell ends in the very same state. Where PACK faults nothing is said: ERRCMD, at least, differs. -/
def Obligations.SliceOfOneCellIsPack : Prop :=
  ∀ s t : State, s.fault = false → s.len.toNat = 64 → s.width.toNat = 8 → s.height.toNat = 8 →
    exec .pack s = .next t → t.fault = false → exec .slice s = .next t

/-- R194: InvalidSpritesheetDimensions is raised by SLICE when WIDTH is not a multiple of 8 (info 0) or, WIDTH being one,
HEIGHT is not (info 1); and by nothing else. -/
def Obligations.SheetDimensionsFaultExactly : Prop :=
  ∀ s : State, s.fault = false →
    (s.width.toNat % 8 ≠ 0 →
      ∃ t, exec .slice s = .next t ∧ t.fault = true ∧ t.err = 3 ∧ t.errInfo = 0)
    ∧ (s.width.toNat % 8 = 0 → s.height.toNat % 8 ≠ 0 →
      ∃ t, exec .slice s = .next t ∧ t.fault = true ∧ t.err = 3 ∧ t.errInfo = 1)
    ∧ ∀ i t, exec i s = .next t → t.fault = true → t.err = 3 →
        i = .slice ∧ (s.width.toNat % 8 ≠ 0 ∨ s.height.toNat % 8 ≠ 0)

/-! ### AUTOTILE -/

/-- R32, R70: the identifiers the model expects are the register values of the four strings. -/
def Obligations.SlotIdentifiers : Prop :=
  (∀ q, expectedMagic q = slotWord q)
    ∧ ∀ a b c d : Byte, (identifier a b c d).toNat = a.toNat + 256 * b.toNat + 65536 * c.toNat + 16777216 * d.toNat

/-- R41: cell (t, c) of quadrant q is `BG[START(q) + t*BG_W + c]`, which is row `R0 + t`, column `C0 + c` of the map; the
cells of the four quadrants are cells of BG, no two are the same, and together they are all of BG. With the default sizes
START is 480, 496, 0, 16. -/
def Obligations.QuadrantsTileTheMap : Prop :=
  ∀ c : LegalCfg,
    (∀ q t col, t < qh c.toCfg → col < qw c.toCfg →
      cellIndex c.toCfg q t col = mapCell c.toCfg q t col ∧ mapCell c.toCfg q t col < c.bgW * c.bgH)
    ∧ (∀ q t col q' t' col', t < qh c.toCfg → col < qw c.toCfg → t' < qh c.toCfg → col' < qw c.toCfg →
      mapCell c.toCfg q t col = mapCell c.toCfg q' t' col' → q = q' ∧ t = t' ∧ col = col')
    ∧ (∀ a < c.bgW * c.bgH, ∃ q t col, t < qh c.toCfg ∧ col < qw c.toCfg ∧ mapCell c.toCfg q t col = a)
    ∧ (c.bgW = 32 → c.bgH = 30 →
      quadStart c.toCfg 0 = 480 ∧ quadStart c.toCfg 1 = 496 ∧ quadStart c.toCfg 2 = 0 ∧ quadStart c.toCfg 3 = 16)

/-- R143, R144: the class of a cell by its place, and its neighbour mask `U + 2*D + 4*L + 8*R` written out over the
characters of the quadrant's own chunk, a neighbour outside the quadrant counting 0. -/
def Obligations.ClassAndMaskFollowRules : Prop :=
  ∀ (s : State) (q : Fin 4) (t c : Nat), t < qh s.cfg.toCfg → c < qw s.cfg.toCfg →
    let wall := fun (inside : Bool) (i : Nat) => if inside = true ∧ readChunk s q i = 0x31 then 1 else 0
    (t = 0 → posClass s.cfg.toCfg t c = .topRow)
    ∧ (t ≠ 0 → t + 1 = qh s.cfg.toCfg → posClass s.cfg.toCfg t c = .botRow)
    ∧ (t ≠ 0 → t + 1 ≠ qh s.cfg.toCfg → c = 0 → posClass s.cfg.toCfg t c = .leftCol)
    ∧ (t ≠ 0 → t + 1 ≠ qh s.cfg.toCfg → c ≠ 0 → c + 1 = qw s.cfg.toCfg → posClass s.cfg.toCfg t c = .rightCol)
    ∧ (t ≠ 0 → t + 1 ≠ qh s.cfg.toCfg → c ≠ 0 → c + 1 ≠ qw s.cfg.toCfg → posClass s.cfg.toCfg t c = .interior)
    ∧ neighbourMask s q t c =
        wall (decide (t ≠ 0)) ((t - 1) * qw s.cfg.toCfg + c)
          + 2 * wall (decide (t + 1 < qh s.cfg.toCfg)) ((t + 1) * qw s.cfg.toCfg + c)
          + 4 * wall (decide (c ≠ 0)) (t * qw s.cfg.toCfg + (c - 1))
          + 8 * wall (decide (c + 1 < qw s.cfg.toCfg)) (t * qw s.cfg.toCfg + (c + 1))

/-- R145 to R149: the default table is what the five rules say, for every combination of the neighbour bits. -/
def Obligations.TableFollowsClassRules : Prop :=
  ∀ u d l r : Bool,
    let m := u.toNat + 2 * d.toNat + 4 * l.toNat + 8 * r.toNat
    let side := fun (a b c : Variant) => if l = false then a else if r = false then b else c
    lutEntry defaultLut .topRow m = side .tlc .trc .top
      ∧ lutEntry defaultLut .botRow m = side .blc .brc .bot
      ∧ lutEntry defaultLut .leftCol m = (if u = d then .left else if u then .tlc else .blc)
      ∧ lutEntry defaultLut .rightCol m = (if u = d then .right else if u then .trc else .brc)
      ∧ lutEntry defaultLut .interior m =
          (if u && d && l && r then .cross
           else if u && d then (if r then .left else .right)
           else if u then side .tlc .trc .top
           else if d then side .blc .brc .bot
           else side .tlc .trc .top)

/-- R150: in every legal configuration the entries tagged `s` are those of the table. -/
def Obligations.SettledEntriesAreFixed : Prop :=
  ∀ (c : LegalCfg) (k : PosClass) (m : Nat), m < 16 → lutTag k m = .s →
    lutEntry c.lut k m = lutEntry defaultLut k m

/-- R144, R150: an entry tagged `u` is reached by no cell of any quadrant. -/
def Obligations.UnreachableEntriesAreNotRead : Prop :=
  ∀ (s : State) (q : Fin 4) (t c : Nat), t < qh s.cfg.toCfg → c < qw s.cfg.toCfg →
    neighbourMask s q t c < 16 ∧ lutTag (posClass s.cfg.toCfg t c) (neighbourMask s q t c) ≠ .u

/-- R142, R151, R152: AUTOTILE completes when the four identifiers and lengths are right. An occupied cell gets the unlit
palette and the tile of its variant, an unoccupied one the ground values; RESULT is the number of occupied cells; nothing
else changes. The place of the palette field is log 16. -/
def Obligations.AutotileBuildsTheMap : Prop :=
  ∀ s : State, s.fault = false → (∀ q, SlotGood s q) →
    ∃ t, exec .autotile s = .next t
      ∧ t = { s with result := t.result, bg := t.bg, answer := some (.write .ok) }
      ∧ t.result.toNat =
          (Finset.univ.filter fun x : Fin 4 × Fin (qh s.cfg.toCfg) × Fin (qw s.cfg.toCfg) =>
            readChunk s x.1 (x.2.1.val * qw s.cfg.toCfg + x.2.2.val) = 0x31).card
      ∧ ∀ q r c, r < qh s.cfg.toCfg → c < qw s.cfg.toCfg →
          (readBg t (mapCell s.cfg.toCfg q r c)).toNat =
            if readChunk s q (r * qw s.cfg.toCfg + c) = 0x31 then
              s.cfg.unlitPal.toNat * 256
                + (variantTileOf s.cfg.variantTile
                    (lutEntry s.cfg.lut (posClass s.cfg.toCfg r c) (neighbourMask s q r c))).toNat
            else s.cfg.groundPal.toNat * 256 + s.cfg.groundTile.toNat

/-- AUTOTILE writes no element of BG outside the map, so that every element that is no cell of a quadrant reads as before
(R152, R41). -/
def Obligations.AutotileStaysInTheMap : Prop :=
  ∀ s t : State, exec .autotile s = .next t → ∀ a, s.cfg.bgW * s.cfg.bgH ≤ a → readBg t a = readBg s a

/-- R195, R196: AUTOTILE reports the lowest slot at which a test fails, the identifier (4) before the length (5), with the
slot number as info; nothing else changes. -/
def Obligations.AutotileReportsFirstBadSlot : Prop :=
  ∀ (s : State) (q : Fin 4), s.fault = false → (∀ p, p < q → SlotGood s p) →
    (slotGet s.chunkMagic q ≠ slotWord q → exec .autotile s = .next (recorded s 4 (BitVec.ofNat 32 q.val) 4))
    ∧ (slotGet s.chunkMagic q = slotWord q →
        (slotGet s.chunkLen q).toNat ≠ qw s.cfg.toCfg * qh s.cfg.toCfg →
        exec .autotile s = .next (recorded s 5 (BitVec.ofNat 32 q.val) 4))

/-- R142: a neighbour across a quadrant boundary is absent, whatever the other quadrant holds: the cells AUTOTILE gives a
quadrant depend on that quadrant's chunk alone. -/
def Obligations.QuadrantsDoNotSeeEachOther : Prop :=
  ∀ (s s' t t' : State) (q : Fin 4), s.fault = false → s'.fault = false → (∀ p, SlotGood s p) → (∀ p, SlotGood s' p) →
    s'.cfg = s.cfg → (∀ i < qw s.cfg.toCfg * qh s.cfg.toCfg, readChunk s' q i = readChunk s q i) →
    exec .autotile s = .next t → exec .autotile s' = .next t' →
      ∀ r c, r < qh s.cfg.toCfg → c < qw s.cfg.toCfg →
        readBg t' (mapCell s.cfg.toCfg q r c) = readBg t (mapCell s.cfg.toCfg q r c)

/-- R152: running AUTOTILE again on the same chunks gives the same map and the same RESULT, also when lighting came in
between. -/
def Obligations.AutotileIsIdempotent : Prop :=
  ∀ s t u : State, s.fault = false → exec .autotile s = .next t → t.fault = false →
    (u = t ∨ exec .illum t = .next u) → u.fault = false →
      ∃ v, exec .autotile u = .next v ∧ v.fault = false ∧ v.result = t.result
        ∧ ∀ a < s.cfg.bgW * s.cfg.bgH, readBg v a = readBg t a

/-- R154: with the default table, an isolated cell (no occupied neighbour) is TLC on the top row, BLC on the bottom row, LEFT
in the left column, RIGHT in the right column and TLC in the interior. -/
def Obligations.IsolatedCellIsPositional : Prop :=
  ∀ (s : State) (q : Fin 4) (t c : Nat), s.cfg.lut = defaultLut → t < qh s.cfg.toCfg → c < qw s.cfg.toCfg →
    occ s q (t - 1 : Int) c = false → occ s q (t + 1 : Int) c = false → occ s q t (c - 1 : Int) = false →
    occ s q t (c + 1 : Int) = false →
      cellVariant s q t c =
        (if t = 0 then .tlc
         else if t = qh s.cfg.toCfg - 1 then .blc
         else if c = 0 then .left
         else if c = qw s.cfg.toCfg - 1 then .right
         else .tlc)

/-! ### ILLUM -/

/-- R170, R171: ILLUM of quadrant QUAD. Every occupied cell of the quadrant keeps bits 7:0 and gets the lit palette above
them and 0 in bits 15:11; every other element of BG reads as before; RESULT is the number of those cells; nothing else
changes. QUAD above 3 is OperandRange 3. -/
def Obligations.IllumLightsTheQuadrant : Prop :=
  ∀ s : State, s.fault = false →
    (∀ q : Fin 4, s.quad.toNat = q.val →
      ∃ t, exec .illum s = .next t
        ∧ t = { s with result := t.result, bg := t.bg, answer := some (.write .ok) }
        ∧ t.result.toNat =
            (Finset.univ.filter fun x : Fin (qh s.cfg.toCfg) × Fin (qw s.cfg.toCfg) =>
              readChunk s q (x.1.val * qw s.cfg.toCfg + x.2.val) = 0x31).card
        ∧ (∀ r c, r < qh s.cfg.toCfg → c < qw s.cfg.toCfg → readChunk s q (r * qw s.cfg.toCfg + c) = 0x31 →
            (readBg t (mapCell s.cfg.toCfg q r c)).toNat =
              s.cfg.litPal.toNat * 256 + (readBg s (mapCell s.cfg.toCfg q r c)).toNat % 256)
        ∧ ∀ a, (∀ r c, r < qh s.cfg.toCfg → c < qw s.cfg.toCfg →
              readChunk s q (r * qw s.cfg.toCfg + c) = 0x31 → a ≠ mapCell s.cfg.toCfg q r c) →
            readBg t a = readBg s a)
    ∧ (3 < s.quad.toNat → exec .illum s = .next (recorded s 8 3 5))

/-- R170: a second ILLUM of the same quadrant with the same chunk leaves BG unchanged and RESULT the same. -/
def Obligations.IllumIsIdempotent : Prop :=
  ∀ s t : State, exec .illum s = .next t → t.fault = false →
    ∃ u, exec .illum t = .next u ∧ u.result = t.result ∧ u.fault = false ∧ ∀ a, readBg u a = readBg t a

/-! ### The whole machine -/

/-- The invariant holds at reset. -/
def Obligations.InvariantAtReset : Prop := Inv State.reset

/-- Every step keeps the invariant: the memories stay in canonical form and inside their bounds, and the fault record is
zero while FAULT = 0 (R46 a) and otherwise a code, an info and a command word that R191 puts together. -/
def Obligations.StepKeepsInvariant : Prop := ∀ s t : State, Inv s → step s = .next t → Inv t

/-- R46 b: once FAULT = 1, no register and no memory element is changed by any CMD write, of which there may be any number,
until a reset: the state after all of them is the state before but for the answer. -/
def Obligations.FaultedStateIsFrozen : Prop :=
  ∀ (vs : List Word) (s : State), s.fault = true → s.host = vs.map (fun v => .write 0x06 v) → vs ≠ [] →
    Host.Core.run Sys2Proof.core vs.length s = .next (answeredError { s with host := [] })

/-- R46 c: after an AUTOTILE that completes every cell of BG has bits 15:11 equal to 0, and after an ILLUM that completes
every cell it wrote, the occupied cells of its quadrant. The place of the palette field is log 16. -/
def Obligations.WrittenCellsHaveZeroTop : Prop :=
  ∀ s t : State, t.fault = false →
    (exec .autotile s = .next t → ∀ a < s.cfg.bgW * s.cfg.bgH, (readBg t a).extractLsb' 11 5 = 0)
    ∧ (exec .illum s = .next t → ∀ (q : Fin 4) (r c : Nat), s.quad.toNat = q.val →
        r < qh s.cfg.toCfg → c < qw s.cfg.toCfg → readChunk s q (r * qw s.cfg.toCfg + c) = 0x31 →
        (readBg t (mapCell s.cfg.toCfg q r c)).extractLsb' 11 5 = 0)

/-- R46 d: a byte of TILE changes only by a PACK or SLICE that completes without fault, or by a reset. -/
def Obligations.TileChangesOnlyByPackSliceReset : Prop :=
  ∀ (s t : State) (i b : Nat), step s = .next t → readTile t i b ≠ readTile s i b →
    ∃ x rest, s.host = x :: rest ∧ (IsReset x ∨ t.fault = false ∧ (x = .write 0x06 2 ∨ x = .write 0x06 3))

/-- R46 e: an element of BG changes only by an AUTOTILE or ILLUM that completes without fault, or by a reset. -/
def Obligations.MapChangesOnlyByAutotileIllumReset : Prop :=
  ∀ (s t : State) (a : Nat), step s = .next t → readBg t a ≠ readBg s a →
    ∃ x rest, s.host = x :: rest ∧ (IsReset x ∨ t.fault = false ∧ (x = .write 0x06 4 ∨ x = .write 0x06 5))

/-- R29: RESULT is written by commands only: a CMD write that is no NOP, or a reset. -/
def Obligations.ResultChangesOnlyByCommands : Prop :=
  ∀ s t : State, step s = .next t → t.result ≠ s.result →
    ∃ x rest, s.host = x :: rest ∧
      (IsReset x ∨ ∃ i : Instr, x = .write 0x06 (encode i) ∧ i ≠ .nop ∧ (t.fault = false ∨ i = .find ∧ t.result = 4))

/-- After an AUTOTILE that completes every cell of the map holds its value of R151, the occupied ones with the unlit palette,
so that the map is decoded; and a decoded map stays decoded, lit or unlit cell by cell, through every step that is no reset
and no host write of CHUNK (R45, R46 e, R171, R235). -/
def Obligations.DecodedMapPersists : Prop :=
  (∀ s t : State, exec .autotile s = .next t → t.fault = false → MapUnlit t ∧ MapDecoded t)
  ∧ ∀ s t : State, MapDecoded s → step s = .next t →
      (∀ x rest, s.host = x :: rest → ¬IsReset x ∧
        ∀ a v q i, x = .write a v → elementAt s.cfg.toCfg a.toNat ≠ some (.chunk q i)) →
      MapDecoded t
end

