-- ==== Sys2Proof/Laws/Ops.lean ====
section
/-! SUPPORT. The laws of the shared operations: the configuration's constraints, the register window, the data formats, the
palette indexer, occupancy, and the frame a command runs in. -/

namespace Sys2Proof.Machine

/-! ### The configuration -/

/-- The constraints of a legal configuration (R7), by name. -/
structure CfgFacts (c : Cfg) : Prop where
  widthEven : c.bgW % 2 = 0
  widthTwo : 2 ≤ c.bgW
  heightEven : c.bgH % 2 = 0
  heightTwo : 2 ≤ c.bgH
  map : c.bgW * c.bgH ≤ 8192
  quadrant : qw c * qh c ≤ 1024
  pix : 1 ≤ c.pixN ∧ c.pixN ≤ 65536
  tile : 1 ≤ c.tileN ∧ c.tileN ≤ 256
  lut : lutLegal c.lut = true

theorem cfg_facts (c : LegalCfg) : CfgFacts c.toCfg := by
  have := c.isLegal
  simp only [cfgLegal, Bool.and_eq_true, beq_iff_eq, decide_eq_true_eq] at this
  obtain ⟨⟨⟨⟨⟨⟨⟨h1, h2⟩, h3, h4⟩, h5⟩, h6⟩, h7⟩, h8⟩, h9⟩ := this
  exact ⟨h1, h2, h3, h4, h5, h6, h7, h8, h9⟩

/-- The map is twice a quadrant in each direction, and a quadrant has a cell (R41). -/
theorem cfg_halves (c : LegalCfg) :
    c.bgW = 2 * qw c.toCfg ∧ c.bgH = 2 * qh c.toCfg ∧ 1 ≤ qw c.toCfg ∧ 1 ≤ qh c.toCfg := by
  have h := cfg_facts c
  have := h.widthEven
  have := h.heightEven
  have := h.widthTwo
  have := h.heightTwo
  unfold qw qh
  omega

/-! ### Registers and formats -/

theorem regAt_regAddr (r : Reg) : regAt (regAddr r) = some r := by
  cases r with
  | chunkMagic q => fin_cases q <;> rfl
  | chunkLen q => fin_cases q <;> rfl
  | _ => rfl

theorem regAddr_lt (r : Reg) : regAddr r < 0x18 := by
  cases r with
  | chunkMagic q => simp [regAddr]; omega
  | chunkLen q => simp [regAddr]; omega
  | _ => decide

theorem regAddr_of_regAt {a : Nat} {r : Reg} (h : regAt a = some r) : regAddr r = a := by
  unfold regAt at h
  split at h <;> cases h <;> rfl

/-- A read of a slot's register after a write of a slot's register. -/
theorem slotGet_slotSet (p : PerSlot) (q q' : Fin 4) (v : Word) :
    slotGet (slotSet p q v) q' = if q' = q then v else slotGet p q' := by
  fin_cases q <;> fin_cases q' <;> rfl

@[simp] theorem truncNat_toNat (v : Word) : truncNat 32 v.toNat = v := by simp [truncNat]

theorem bitAt_zero (v : Word) : bitAt v 0 = 1 ↔ v.getLsbD 0 = true := by
  simp [bitAt, bitField, BitVec.getLsbD, Nat.testBit]

/-- The value of a background cell (R69). -/
theorem bgCell_toNat (p : BitVec 3) (t : Byte) : (bgCell p t).toNat = p.toNat * 256 + t.toNat := by
  have := p.isLt
  have := t.isLt
  simp [bgCell, truncNat]
  omega

/-! ### The palette indexer -/

theorem find?_range_four (f : Nat → Bool) :
    (List.range 4).find? f =
      if f 0 then some 0 else if f 1 then some 1 else if f 2 then some 2 else if f 3 then some 3 else none := by
  simp only [show List.range 4 = [0, 1, 2, 3] from rfl, List.find?_cons, List.find?_nil]
  repeat' split
  all_goals simp_all

/-- The indexer as its four tests (R110). -/
theorem findIndex_eq (s : State) (p : Nat) (colour : Word) :
    findIndex s p colour =
      if readPal s p 0 = colour then 0 else if readPal s p 1 = colour then 1
      else if readPal s p 2 = colour then 2 else if readPal s p 3 = colour then 3 else 4 := by
  unfold findIndex
  rw [find?_range_four]
  simp only [beq_iff_eq]
  repeat' split
  all_goals rfl

theorem findIndex_le (s : State) (p : Nat) (colour : Word) : findIndex s p colour ≤ 4 := by
  rw [findIndex_eq]
  repeat' split
  all_goals omega

/-! ### Occupancy -/

/-- A cell outside the quadrant is not occupied (R142). -/
theorem occ_outside (s : State) (q : Fin 4) {t c : Int}
    (h : ¬(0 ≤ t ∧ t < qh s.cfg.toCfg ∧ 0 ≤ c ∧ c < qw s.cfg.toCfg)) : occ s q t c = false := by
  by_contra hocc
  simp [occ] at hocc
  omega

/-- A cell of the quadrant is occupied when its character is '1' (R142). -/
theorem occ_inside (s : State) (q : Fin 4) {t c : Nat} (ht : t < qh s.cfg.toCfg) (hc : c < qw s.cfg.toCfg) :
    occ s q t c = decide (readChunk s q (t * qw s.cfg.toCfg + c) = 0x31) := by
  simp [occ, beq_eq_decide]
  exact fun _ => ⟨ht, hc⟩

theorem mem_quadCells {c : Cfg} {x : Nat × Nat} : x ∈ quadCells c ↔ x.1 < qh c ∧ x.2 < qw c := by
  obtain ⟨t, col⟩ := x
  simp [quadCells]

theorem quadCells_nodup (c : Cfg) : (quadCells c).Nodup := List.nodup_range.product List.nodup_range

/-! ### The frame of a command -/

theorem runCommand_faulted (w : Word) (body : State → Ending) {s : State} (h : s.fault = true) :
    runCommand w body s = respond (.write .error) s := by
  unfold runCommand
  rw [if_pos h]

theorem runCommand_done {w : Word} {body : State → Ending} {s t : State} (hf : s.fault = false) (h : body s = .done t) :
    runCommand w body s = respond (.write .ok) t := by
  unfold runCommand
  rw [if_neg (by simp [hf]), h]

theorem runCommand_raised {w : Word} {body : State → Ending} {s t : State} {f : Raise} (hf : s.fault = false)
    (h : body s = .raised t f) : runCommand w body s = faultEntry w f t := by
  unfold runCommand
  rw [if_neg (by simp [hf]), h]

end Sys2Proof.Machine
end

