-- ==== Sys2Proof/Laws/Assembler.lean ====
section
/-! SUPPORT. The law of the length the host writes into CHUNK_LEN. -/

namespace Sys2Proof.Machine

/-- A length that CHUNK_LEN can hold is written as it is (R33). -/
theorem declaredLength_toNat {n : Nat} (h : n < 2 ^ 32) : (declaredLength n).toNat = n := by
  unfold declaredLength
  rw [if_pos h]
  exact Nat.mod_eq_of_lt h

/-- The value written is the quadrant's size exactly when the declared length is, whatever the length (log 21). -/
theorem declaredLength_eq_iff (c : LegalCfg) (n : Nat) :
    (declaredLength n).toNat = qw c.toCfg * qh c.toCfg ↔ n = qw c.toCfg * qh c.toCfg := by
  have := (cfg_facts c).quadrant
  by_cases h : n < 2 ^ 32
  · rw [declaredLength_toNat h]
  · unfold declaredLength
    rw [if_neg h, show (0xFFFFFFFF : Word).toNat = 4294967295 from rfl]
    omega

end Sys2Proof.Machine
end

