-- ==== Sys2Proof/Laws/Memory.lean ====
section
/-! SUPPORT. The laws of a memory: a read after a write, writes that leave other elements alone, and the canonical form. -/

namespace Sys2Proof.Machine

variable {w : Nat}

@[simp] theorem memLookup_nil (a : Nat) : memLookup ([] : Memory w) a = none := rfl

theorem memLookup_cons (b : Nat) (x : BitVec w) (m : Memory w) (a : Nat) :
    memLookup ((b, x) :: m) a = if a = b then some x else memLookup m a := rfl

@[simp] theorem memLookup_insert_self (m : Memory w) (a : Nat) (v : BitVec w) :
    memLookup (memInsert m a v) a = some v := by
  induction m with
  | nil => simp [memInsert, memLookup]
  | cons e m ih =>
    obtain ⟨b, x⟩ := e
    simp only [memInsert]
    split
    · simp [memLookup]
    · split
      · simp [memLookup]
      · simp [memLookup, *]

theorem memLookup_insert_of_ne (m : Memory w) {a c : Nat} (v : BitVec w) (h : c ≠ a) :
    memLookup (memInsert m a v) c = memLookup m c := by
  induction m with
  | nil => simp [memInsert, memLookup, h]
  | cons e m ih =>
    obtain ⟨b, x⟩ := e
    simp only [memInsert]
    split
    · simp [memLookup, h]
    · split
      · rename_i _ hab
        subst hab
        simp [memLookup, h]
      · simp [memLookup, ih]

/-- What a write does to every read. -/
theorem memLookup_insert (m : Memory w) (a c : Nat) (v : BitVec w) :
    memLookup (memInsert m a v) c = if c = a then some v else memLookup m c := by
  by_cases h : c = a
  · subst h; simp
  · simp [h, memLookup_insert_of_ne m v h]

/-- What no longer listing an element does to every read. -/
theorem memLookup_erase (m : Memory w) (a c : Nat) :
    memLookup (memErase m a) c = if c = a then none else memLookup m c := by
  induction m with
  | nil => simp [memErase]
  | cons e m ih =>
    obtain ⟨b, x⟩ := e
    simp only [memErase] at ih ⊢
    by_cases hb : b = a
    · subst hb
      by_cases hc : c = b <;> simp_all [memLookup]
    · by_cases hc : c = b
      · subst hc; simp [hb, memLookup]
      · simp [hb, hc, memLookup, ih]

/-- What a write of TILE does to every read of TILE. -/
theorem tileLookup_insert (m : Memory 8) (a c : Nat) (v : Byte) :
    tileLookup (tileInsert m a v) c = if c = a then v else tileLookup m c := by
  unfold tileInsert tileLookup
  by_cases hv : v = 0
  · simp only [hv, if_true, memLookup_erase]
    split <;> simp
  · simp only [hv, if_false, memLookup_insert]
    split <;> simp

/-- An element none of the writes names reads as before. -/
theorem memLookup_insertAll_of_not_mem (m : Memory w) (ws : List (Nat × BitVec w)) {c : Nat}
    (h : c ∉ ws.map Prod.fst) : memLookup (memInsertAll m ws) c = memLookup m c := by
  induction ws generalizing m with
  | nil => rfl
  | cons e ws ih =>
    simp only [List.map_cons, List.mem_cons, not_or] at h
    have : memInsertAll m (e :: ws) = memInsertAll (memInsert m e.1 e.2) ws := rfl
    rw [this, ih _ h.2, memLookup_insert_of_ne _ _ h.1]

/-- An element that exactly one of the writes names reads as that write says. -/
theorem memLookup_insertAll_of_mem (m : Memory w) (ws : List (Nat × BitVec w)) {c : Nat} {v : BitVec w}
    (h : (c, v) ∈ ws) (hn : (ws.map Prod.fst).Nodup) : memLookup (memInsertAll m ws) c = some v := by
  induction ws generalizing m with
  | nil => simp at h
  | cons e ws ih =>
    have hcons : memInsertAll m (e :: ws) = memInsertAll (memInsert m e.1 e.2) ws := rfl
    simp only [List.map_cons, List.nodup_cons] at hn
    rcases List.mem_cons.1 h with rfl | h
    · rw [hcons, memLookup_insertAll_of_not_mem _ _ hn.1, memLookup_insert_self]
    · rw [hcons, ih _ h hn.2]

/-- A byte of TILE none of the writes names reads as before. -/
theorem tileLookup_insertAll_of_not_mem (m : Memory 8) (ws : List (Nat × Byte)) {c : Nat}
    (h : c ∉ ws.map Prod.fst) : tileLookup (tileInsertAll m ws) c = tileLookup m c := by
  induction ws generalizing m with
  | nil => rfl
  | cons e ws ih =>
    simp only [List.map_cons, List.mem_cons, not_or] at h
    have : tileInsertAll m (e :: ws) = tileInsertAll (tileInsert m e.1 e.2) ws := rfl
    rw [this, ih _ h.2, tileLookup_insert, if_neg h.1]

/-- A byte of TILE that exactly one of the writes names reads as that write says. -/
theorem tileLookup_insertAll_of_mem (m : Memory 8) (ws : List (Nat × Byte)) {c : Nat} {v : Byte}
    (h : (c, v) ∈ ws) (hn : (ws.map Prod.fst).Nodup) : tileLookup (tileInsertAll m ws) c = v := by
  induction ws generalizing m with
  | nil => simp at h
  | cons e ws ih =>
    have hcons : tileInsertAll m (e :: ws) = tileInsertAll (tileInsert m e.1 e.2) ws := rfl
    simp only [List.map_cons, List.nodup_cons] at hn
    rcases List.mem_cons.1 h with rfl | h
    · rw [hcons, tileLookup_insertAll_of_not_mem _ _ hn.1, tileLookup_insert, if_pos rfl]
    · rw [hcons, ih _ h hn.2]

/-! ### The canonical form -/

theorem mem_of_mem_insert {m : Memory w} {a : Nat} {v : BitVec w} {e : Nat × BitVec w}
    (h : e ∈ memInsert m a v) : e = (a, v) ∨ e ∈ m := by
  induction m with
  | nil => simpa [memInsert] using h
  | cons b m ih =>
    obtain ⟨b, x⟩ := b
    simp only [memInsert] at h
    split at h
    · simpa using h
    · split at h
      · rcases List.mem_cons.1 h with h | h
        · exact .inl h
        · exact .inr (List.mem_cons_of_mem _ h)
      · rcases List.mem_cons.1 h with h | h
        · exact .inr (h ▸ List.mem_cons_self ..)
        · exact (ih h).imp_right (List.mem_cons_of_mem _)

theorem mem_keys_insert {m : Memory w} {a : Nat} {v : BitVec w} {k : Nat}
    (h : k ∈ (memInsert m a v).map Prod.fst) : k = a ∨ k ∈ m.map Prod.fst := by
  obtain ⟨e, he, rfl⟩ := List.mem_map.1 h
  rcases mem_of_mem_insert he with rfl | he
  · exact .inl rfl
  · exact .inr (List.mem_map.2 ⟨e, he, rfl⟩)

/-- A write keeps the canonical form. -/
theorem memInsert_wf {m : Memory w} (h : m.wf) (a : Nat) (v : BitVec w) : Memory.wf (memInsert m a v) := by
  induction m with
  | nil => simp [Memory.wf, memInsert]
  | cons e m ih =>
    obtain ⟨b, x⟩ := e
    have hb : (∀ k ∈ m.map Prod.fst, b < k) ∧ Memory.wf m := by
      simpa [Memory.wf, List.pairwise_cons] using h
    simp only [memInsert]
    split
    · rename_i hab
      have : ∀ k ∈ (((b, x) :: m).map Prod.fst), a < k := by
        intro k hk
        rcases List.mem_cons.1 hk with rfl | hk
        · exact hab
        · exact hab.trans (hb.1 k hk)
      exact List.pairwise_cons.2 ⟨this, h⟩
    · split
      · rename_i _ hab
        subst hab
        exact List.pairwise_cons.2 hb
      · rename_i h1 h2
        refine List.pairwise_cons.2 ⟨fun k hk => ?_, ih hb.2⟩
        rcases mem_keys_insert hk with rfl | hk
        · omega
        · exact hb.1 k hk

/-- No longer listing an element keeps the canonical form. -/
theorem memErase_wf {m : Memory w} (h : m.wf) (a : Nat) : Memory.wf (memErase m a) :=
  List.Pairwise.sublist (List.Sublist.map _ List.filter_sublist) h

/-- A write of TILE keeps the canonical form. -/
theorem tileInsert_wf {m : Memory 8} (h : m.wf) (a : Nat) (v : Byte) : Memory.wf (tileInsert m a v) := by
  unfold tileInsert
  split
  · exact memErase_wf h a
  · exact memInsert_wf h a v

/-- A write of TILE lists no zero byte. -/
theorem tileInsert_nonzero {m : Memory 8} (h : ∀ e ∈ m, e.2 ≠ 0) (a : Nat) (v : Byte) :
    ∀ e ∈ tileInsert m a v, e.2 ≠ 0 := by
  unfold tileInsert
  split
  · intro e he
    exact h e (List.mem_of_mem_filter he)
  · rename_i hv
    intro e he
    rcases mem_of_mem_insert he with rfl | he
    · exact hv
    · exact h e he

theorem memInsertAll_wf {m : Memory w} (h : m.wf) (ws : List (Nat × BitVec w)) : Memory.wf (memInsertAll m ws) := by
  induction ws generalizing m with
  | nil => exact h
  | cons e ws ih => exact ih (memInsert_wf h e.1 e.2)

theorem tileInsertAll_wf {m : Memory 8} (h : m.wf) (ws : List (Nat × Byte)) : Memory.wf (tileInsertAll m ws) := by
  induction ws generalizing m with
  | nil => exact h
  | cons e ws ih => exact ih (tileInsert_wf h e.1 e.2)

theorem tileInsertAll_nonzero {m : Memory 8} (h : ∀ e ∈ m, e.2 ≠ 0) (ws : List (Nat × Byte)) :
    ∀ e ∈ tileInsertAll m ws, e.2 ≠ 0 := by
  induction ws generalizing m with
  | nil => exact h
  | cons e ws ih => exact ih (tileInsert_nonzero h e.1 e.2)

/-- The elements a write lists are the written one and those listed before. -/
theorem mem_of_mem_tileInsert {m : Memory 8} {a : Nat} {v : Byte} {e : Nat × Byte}
    (h : e ∈ tileInsert m a v) : e = (a, v) ∨ e ∈ m := by
  unfold tileInsert at h
  split at h
  · exact .inr (List.mem_of_mem_filter h)
  · exact mem_of_mem_insert h

theorem mem_of_mem_insertAll {m : Memory w} {ws : List (Nat × BitVec w)} {e : Nat × BitVec w}
    (h : e ∈ memInsertAll m ws) : e ∈ ws ∨ e ∈ m := by
  induction ws generalizing m with
  | nil => exact .inr h
  | cons d ws ih =>
    rcases ih (m := memInsert m d.1 d.2) h with h | h
    · exact .inl (List.mem_cons_of_mem _ h)
    · rcases mem_of_mem_insert h with rfl | h
      · exact .inl (List.mem_cons_self ..)
      · exact .inr h

theorem mem_of_mem_tileInsertAll {m : Memory 8} {ws : List (Nat × Byte)} {e : Nat × Byte}
    (h : e ∈ tileInsertAll m ws) : e ∈ ws ∨ e ∈ m := by
  induction ws generalizing m with
  | nil => exact .inr h
  | cons d ws ih =>
    rcases ih (m := tileInsert m d.1 d.2) h with h | h
    · exact .inl (List.mem_cons_of_mem _ h)
    · rcases mem_of_mem_tileInsert h with rfl | h
      · exact .inl (List.mem_cons_self ..)
      · exact .inr h

end Sys2Proof.Machine
end

