-- ==== Sys2Proof/Laws/Autotile.lean ====
section
/-! SUPPORT. The laws of the tests of AUTOTILE and of the read-modify-writes of ILLUM. -/

namespace Sys2Proof.Machine

theorem mem_slots (q : Fin 4) : q ∈ slots := by
  fin_cases q <;> simp [slots]

/-- The tests pass exactly when each slot has its identifier and its length (R152). -/
theorem checkSlots_none {s : State} {qs : List (Fin 4)} :
    checkSlots s qs = none ↔
      ∀ q ∈ qs, slotGet s.chunkMagic q = expectedMagic q
        ∧ (slotGet s.chunkLen q).toNat = qw s.cfg.toCfg * qh s.cfg.toCfg := by
  induction qs with
  | nil => simp [checkSlots]
  | cons q qs ih =>
    unfold checkSlots
    split
    · rename_i h
      simp [h]
    · split
      · rename_i h
        simp [h]
      · rename_i h1 h2
        rw [ne_eq, not_not] at h1 h2
        simp [ih, h1, h2]

/-- Slots that pass do not decide the fault. -/
theorem checkSlots_append {s : State} {pre qs : List (Fin 4)} (h : checkSlots s pre = none) :
    checkSlots s (pre ++ qs) = checkSlots s qs := by
  induction pre with
  | nil => rfl
  | cons q pre ih =>
    unfold checkSlots at h
    split at h
    · cases h
    · split at h
      · cases h
      · rename_i h1 h2
        conv_lhs => rw [List.cons_append]; unfold checkSlots
        rw [if_neg h1, if_neg h2, ih h]

theorem mem_autotileWrites {s : State} {e : Nat × BgCell} :
    e ∈ autotileWrites s ↔
      ∃ q t c, t < qh s.cfg.toCfg ∧ c < qw s.cfg.toCfg ∧ e = (cellIndex s.cfg.toCfg q t c, cellValue s q t c) := by
  simp only [autotileWrites, List.mem_flatMap, List.mem_map, mem_quadCells]
  constructor
  · rintro ⟨q, -, ⟨t, c⟩, h, rfl⟩
    exact ⟨q, t, c, h.1, h.2, rfl⟩
  · rintro ⟨q, t, c, ht, hc, rfl⟩
    exact ⟨q, mem_slots q, (t, c), ⟨ht, hc⟩, rfl⟩

/-- What lighting a cell does to every read (R170). -/
theorem bgLookup_lightCell (s : State) (m : Memory 16) (a c : Nat) :
    bgLookup s.draw (lightCell s m a) c =
      if c = a then truncNat 16 (s.cfg.litPal.toNat * 256 + (bgLookup s.draw m a).toNat % 256)
      else bgLookup s.draw m c := by
  unfold lightCell
  conv_lhs => unfold bgLookup
  rw [memLookup_insert]
  split <;> rfl

/-- Lighting cells leaves every other cell alone. -/
theorem bgLookup_light_of_not_mem (s : State) (cells : List Nat) (m : Memory 16) {c : Nat} (h : c ∉ cells) :
    bgLookup s.draw (cells.foldl (lightCell s) m) c = bgLookup s.draw m c := by
  induction cells generalizing m with
  | nil => rfl
  | cons a cells ih =>
    simp only [List.mem_cons, not_or] at h
    rw [List.foldl_cons, ih _ h.2, bgLookup_lightCell, if_neg h.1]

/-- A cell that is lit once gets the lit palette and keeps its tile. -/
theorem bgLookup_light_of_mem (s : State) (cells : List Nat) (hn : cells.Nodup) (m : Memory 16) {c : Nat}
    (h : c ∈ cells) :
    bgLookup s.draw (cells.foldl (lightCell s) m) c =
      truncNat 16 (s.cfg.litPal.toNat * 256 + (bgLookup s.draw m c).toNat % 256) := by
  induction cells generalizing m with
  | nil => simp at h
  | cons a cells ih =>
    rw [List.nodup_cons] at hn
    rw [List.foldl_cons]
    rcases List.mem_cons.1 h with rfl | hc
    · rw [bgLookup_light_of_not_mem _ _ _ hn.1, bgLookup_lightCell, if_pos rfl]
    · rw [ih hn.2 _ hc, bgLookup_lightCell, if_neg]
      rintro rfl
      exact hn.1 hc

/-- Lighting keeps the canonical form of the memory. -/
theorem light_wf (s : State) (cells : List Nat) {m : Memory 16} (h : m.wf) :
    Memory.wf (cells.foldl (lightCell s) m) := by
  induction cells generalizing m with
  | nil => exact h
  | cons a cells ih => exact ih (memInsert_wf h _ _)

end Sys2Proof.Machine
end

