-- ==== Sys2Proof/Laws/State.lean ====
section
/-! SUPPORT. One lemma for each field of State and each named update of it: what the update makes of the field. -/

namespace Sys2Proof.Machine

/-! ### `respond` -/

@[simp] theorem respond_fault (a : Answer) (s : State) : (respond a s).fault = s.fault := rfl
@[simp] theorem respond_err (a : Answer) (s : State) : (respond a s).err = s.err := rfl
@[simp] theorem respond_errInfo (a : Answer) (s : State) : (respond a s).errInfo = s.errInfo := rfl
@[simp] theorem respond_errCmd (a : Answer) (s : State) : (respond a s).errCmd = s.errCmd := rfl
@[simp] theorem respond_result (a : Answer) (s : State) : (respond a s).result = s.result := rfl
@[simp] theorem respond_src (a : Answer) (s : State) : (respond a s).src = s.src := rfl
@[simp] theorem respond_width (a : Answer) (s : State) : (respond a s).width = s.width := rfl
@[simp] theorem respond_height (a : Answer) (s : State) : (respond a s).height = s.height := rfl
@[simp] theorem respond_len (a : Answer) (s : State) : (respond a s).len = s.len := rfl
@[simp] theorem respond_pal (a : Answer) (s : State) : (respond a s).pal = s.pal := rfl
@[simp] theorem respond_dst (a : Answer) (s : State) : (respond a s).dst = s.dst := rfl
@[simp] theorem respond_quad (a : Answer) (s : State) : (respond a s).quad = s.quad := rfl
@[simp] theorem respond_color (a : Answer) (s : State) : (respond a s).color = s.color := rfl
@[simp] theorem respond_chunkMagic (a : Answer) (s : State) : (respond a s).chunkMagic = s.chunkMagic := rfl
@[simp] theorem respond_chunkLen (a : Answer) (s : State) : (respond a s).chunkLen = s.chunkLen := rfl
@[simp] theorem respond_pix (a : Answer) (s : State) : (respond a s).pix = s.pix := rfl
@[simp] theorem respond_palTable (a : Answer) (s : State) : (respond a s).palTable = s.palTable := rfl
@[simp] theorem respond_chunk (a : Answer) (s : State) : (respond a s).chunk = s.chunk := rfl
@[simp] theorem respond_tile (a : Answer) (s : State) : (respond a s).tile = s.tile := rfl
@[simp] theorem respond_bg (a : Answer) (s : State) : (respond a s).bg = s.bg := rfl
@[simp] theorem respond_cfg (a : Answer) (s : State) : (respond a s).cfg = s.cfg := rfl
@[simp] theorem respond_draw (a : Answer) (s : State) : (respond a s).draw = s.draw := rfl
@[simp] theorem respond_host (a : Answer) (s : State) : (respond a s).host = s.host := rfl
@[simp] theorem respond_answer (a : Answer) (s : State) : (respond a s).answer = some a := rfl

/-! ### `commitResult` -/

@[simp] theorem commitResult_fault (n : Nat) (s : State) : (commitResult n s).fault = s.fault := rfl
@[simp] theorem commitResult_err (n : Nat) (s : State) : (commitResult n s).err = s.err := rfl
@[simp] theorem commitResult_errInfo (n : Nat) (s : State) : (commitResult n s).errInfo = s.errInfo := rfl
@[simp] theorem commitResult_errCmd (n : Nat) (s : State) : (commitResult n s).errCmd = s.errCmd := rfl
@[simp] theorem commitResult_result (n : Nat) (s : State) : (commitResult n s).result = truncNat 32 n := rfl
@[simp] theorem commitResult_src (n : Nat) (s : State) : (commitResult n s).src = s.src := rfl
@[simp] theorem commitResult_width (n : Nat) (s : State) : (commitResult n s).width = s.width := rfl
@[simp] theorem commitResult_height (n : Nat) (s : State) : (commitResult n s).height = s.height := rfl
@[simp] theorem commitResult_len (n : Nat) (s : State) : (commitResult n s).len = s.len := rfl
@[simp] theorem commitResult_pal (n : Nat) (s : State) : (commitResult n s).pal = s.pal := rfl
@[simp] theorem commitResult_dst (n : Nat) (s : State) : (commitResult n s).dst = s.dst := rfl
@[simp] theorem commitResult_quad (n : Nat) (s : State) : (commitResult n s).quad = s.quad := rfl
@[simp] theorem commitResult_color (n : Nat) (s : State) : (commitResult n s).color = s.color := rfl
@[simp] theorem commitResult_chunkMagic (n : Nat) (s : State) : (commitResult n s).chunkMagic = s.chunkMagic := rfl
@[simp] theorem commitResult_chunkLen (n : Nat) (s : State) : (commitResult n s).chunkLen = s.chunkLen := rfl
@[simp] theorem commitResult_pix (n : Nat) (s : State) : (commitResult n s).pix = s.pix := rfl
@[simp] theorem commitResult_palTable (n : Nat) (s : State) : (commitResult n s).palTable = s.palTable := rfl
@[simp] theorem commitResult_chunk (n : Nat) (s : State) : (commitResult n s).chunk = s.chunk := rfl
@[simp] theorem commitResult_tile (n : Nat) (s : State) : (commitResult n s).tile = s.tile := rfl
@[simp] theorem commitResult_bg (n : Nat) (s : State) : (commitResult n s).bg = s.bg := rfl
@[simp] theorem commitResult_cfg (n : Nat) (s : State) : (commitResult n s).cfg = s.cfg := rfl
@[simp] theorem commitResult_draw (n : Nat) (s : State) : (commitResult n s).draw = s.draw := rfl
@[simp] theorem commitResult_host (n : Nat) (s : State) : (commitResult n s).host = s.host := rfl
@[simp] theorem commitResult_answer (n : Nat) (s : State) : (commitResult n s).answer = s.answer := rfl

/-! ### `commitTiles` -/

@[simp] theorem commitTiles_fault (ws : List (Nat × Byte)) (s : State) : (commitTiles ws s).fault = s.fault := rfl
@[simp] theorem commitTiles_err (ws : List (Nat × Byte)) (s : State) : (commitTiles ws s).err = s.err := rfl
@[simp] theorem commitTiles_errInfo (ws : List (Nat × Byte)) (s : State) : (commitTiles ws s).errInfo = s.errInfo := rfl
@[simp] theorem commitTiles_errCmd (ws : List (Nat × Byte)) (s : State) : (commitTiles ws s).errCmd = s.errCmd := rfl
@[simp] theorem commitTiles_result (ws : List (Nat × Byte)) (s : State) : (commitTiles ws s).result = s.result := rfl
@[simp] theorem commitTiles_src (ws : List (Nat × Byte)) (s : State) : (commitTiles ws s).src = s.src := rfl
@[simp] theorem commitTiles_width (ws : List (Nat × Byte)) (s : State) : (commitTiles ws s).width = s.width := rfl
@[simp] theorem commitTiles_height (ws : List (Nat × Byte)) (s : State) : (commitTiles ws s).height = s.height := rfl
@[simp] theorem commitTiles_len (ws : List (Nat × Byte)) (s : State) : (commitTiles ws s).len = s.len := rfl
@[simp] theorem commitTiles_pal (ws : List (Nat × Byte)) (s : State) : (commitTiles ws s).pal = s.pal := rfl
@[simp] theorem commitTiles_dst (ws : List (Nat × Byte)) (s : State) : (commitTiles ws s).dst = s.dst := rfl
@[simp] theorem commitTiles_quad (ws : List (Nat × Byte)) (s : State) : (commitTiles ws s).quad = s.quad := rfl
@[simp] theorem commitTiles_color (ws : List (Nat × Byte)) (s : State) : (commitTiles ws s).color = s.color := rfl
@[simp] theorem commitTiles_chunkMagic (ws : List (Nat × Byte)) (s : State) : (commitTiles ws s).chunkMagic = s.chunkMagic := rfl
@[simp] theorem commitTiles_chunkLen (ws : List (Nat × Byte)) (s : State) : (commitTiles ws s).chunkLen = s.chunkLen := rfl
@[simp] theorem commitTiles_pix (ws : List (Nat × Byte)) (s : State) : (commitTiles ws s).pix = s.pix := rfl
@[simp] theorem commitTiles_palTable (ws : List (Nat × Byte)) (s : State) : (commitTiles ws s).palTable = s.palTable := rfl
@[simp] theorem commitTiles_chunk (ws : List (Nat × Byte)) (s : State) : (commitTiles ws s).chunk = s.chunk := rfl
@[simp] theorem commitTiles_tile (ws : List (Nat × Byte)) (s : State) : (commitTiles ws s).tile = tileInsertAll s.tile ws := rfl
@[simp] theorem commitTiles_bg (ws : List (Nat × Byte)) (s : State) : (commitTiles ws s).bg = s.bg := rfl
@[simp] theorem commitTiles_cfg (ws : List (Nat × Byte)) (s : State) : (commitTiles ws s).cfg = s.cfg := rfl
@[simp] theorem commitTiles_draw (ws : List (Nat × Byte)) (s : State) : (commitTiles ws s).draw = s.draw := rfl
@[simp] theorem commitTiles_host (ws : List (Nat × Byte)) (s : State) : (commitTiles ws s).host = s.host := rfl
@[simp] theorem commitTiles_answer (ws : List (Nat × Byte)) (s : State) : (commitTiles ws s).answer = s.answer := rfl

/-! ### `commitBg` -/

@[simp] theorem commitBg_fault (m : Memory 16) (s : State) : (commitBg m s).fault = s.fault := rfl
@[simp] theorem commitBg_err (m : Memory 16) (s : State) : (commitBg m s).err = s.err := rfl
@[simp] theorem commitBg_errInfo (m : Memory 16) (s : State) : (commitBg m s).errInfo = s.errInfo := rfl
@[simp] theorem commitBg_errCmd (m : Memory 16) (s : State) : (commitBg m s).errCmd = s.errCmd := rfl
@[simp] theorem commitBg_result (m : Memory 16) (s : State) : (commitBg m s).result = s.result := rfl
@[simp] theorem commitBg_src (m : Memory 16) (s : State) : (commitBg m s).src = s.src := rfl
@[simp] theorem commitBg_width (m : Memory 16) (s : State) : (commitBg m s).width = s.width := rfl
@[simp] theorem commitBg_height (m : Memory 16) (s : State) : (commitBg m s).height = s.height := rfl
@[simp] theorem commitBg_len (m : Memory 16) (s : State) : (commitBg m s).len = s.len := rfl
@[simp] theorem commitBg_pal (m : Memory 16) (s : State) : (commitBg m s).pal = s.pal := rfl
@[simp] theorem commitBg_dst (m : Memory 16) (s : State) : (commitBg m s).dst = s.dst := rfl
@[simp] theorem commitBg_quad (m : Memory 16) (s : State) : (commitBg m s).quad = s.quad := rfl
@[simp] theorem commitBg_color (m : Memory 16) (s : State) : (commitBg m s).color = s.color := rfl
@[simp] theorem commitBg_chunkMagic (m : Memory 16) (s : State) : (commitBg m s).chunkMagic = s.chunkMagic := rfl
@[simp] theorem commitBg_chunkLen (m : Memory 16) (s : State) : (commitBg m s).chunkLen = s.chunkLen := rfl
@[simp] theorem commitBg_pix (m : Memory 16) (s : State) : (commitBg m s).pix = s.pix := rfl
@[simp] theorem commitBg_palTable (m : Memory 16) (s : State) : (commitBg m s).palTable = s.palTable := rfl
@[simp] theorem commitBg_chunk (m : Memory 16) (s : State) : (commitBg m s).chunk = s.chunk := rfl
@[simp] theorem commitBg_tile (m : Memory 16) (s : State) : (commitBg m s).tile = s.tile := rfl
@[simp] theorem commitBg_bg (m : Memory 16) (s : State) : (commitBg m s).bg = m := rfl
@[simp] theorem commitBg_cfg (m : Memory 16) (s : State) : (commitBg m s).cfg = s.cfg := rfl
@[simp] theorem commitBg_draw (m : Memory 16) (s : State) : (commitBg m s).draw = s.draw := rfl
@[simp] theorem commitBg_host (m : Memory 16) (s : State) : (commitBg m s).host = s.host := rfl
@[simp] theorem commitBg_answer (m : Memory 16) (s : State) : (commitBg m s).answer = s.answer := rfl

/-! ### `faultEntry` -/

@[simp] theorem faultEntry_fault (w : Word) (f : Raise) (s : State) : (faultEntry w f s).fault = true := rfl
@[simp] theorem faultEntry_err (w : Word) (f : Raise) (s : State) : (faultEntry w f s).err = truncNat 8 (faultNumber f.code) := rfl
@[simp] theorem faultEntry_errInfo (w : Word) (f : Raise) (s : State) : (faultEntry w f s).errInfo = truncNat 32 f.info := rfl
@[simp] theorem faultEntry_errCmd (w : Word) (f : Raise) (s : State) : (faultEntry w f s).errCmd = w := rfl
@[simp] theorem faultEntry_result (w : Word) (f : Raise) (s : State) : (faultEntry w f s).result = s.result := rfl
@[simp] theorem faultEntry_src (w : Word) (f : Raise) (s : State) : (faultEntry w f s).src = s.src := rfl
@[simp] theorem faultEntry_width (w : Word) (f : Raise) (s : State) : (faultEntry w f s).width = s.width := rfl
@[simp] theorem faultEntry_height (w : Word) (f : Raise) (s : State) : (faultEntry w f s).height = s.height := rfl
@[simp] theorem faultEntry_len (w : Word) (f : Raise) (s : State) : (faultEntry w f s).len = s.len := rfl
@[simp] theorem faultEntry_pal (w : Word) (f : Raise) (s : State) : (faultEntry w f s).pal = s.pal := rfl
@[simp] theorem faultEntry_dst (w : Word) (f : Raise) (s : State) : (faultEntry w f s).dst = s.dst := rfl
@[simp] theorem faultEntry_quad (w : Word) (f : Raise) (s : State) : (faultEntry w f s).quad = s.quad := rfl
@[simp] theorem faultEntry_color (w : Word) (f : Raise) (s : State) : (faultEntry w f s).color = s.color := rfl
@[simp] theorem faultEntry_chunkMagic (w : Word) (f : Raise) (s : State) : (faultEntry w f s).chunkMagic = s.chunkMagic := rfl
@[simp] theorem faultEntry_chunkLen (w : Word) (f : Raise) (s : State) : (faultEntry w f s).chunkLen = s.chunkLen := rfl
@[simp] theorem faultEntry_pix (w : Word) (f : Raise) (s : State) : (faultEntry w f s).pix = s.pix := rfl
@[simp] theorem faultEntry_palTable (w : Word) (f : Raise) (s : State) : (faultEntry w f s).palTable = s.palTable := rfl
@[simp] theorem faultEntry_chunk (w : Word) (f : Raise) (s : State) : (faultEntry w f s).chunk = s.chunk := rfl
@[simp] theorem faultEntry_tile (w : Word) (f : Raise) (s : State) : (faultEntry w f s).tile = s.tile := rfl
@[simp] theorem faultEntry_bg (w : Word) (f : Raise) (s : State) : (faultEntry w f s).bg = s.bg := rfl
@[simp] theorem faultEntry_cfg (w : Word) (f : Raise) (s : State) : (faultEntry w f s).cfg = s.cfg := rfl
@[simp] theorem faultEntry_draw (w : Word) (f : Raise) (s : State) : (faultEntry w f s).draw = s.draw := rfl
@[simp] theorem faultEntry_host (w : Word) (f : Raise) (s : State) : (faultEntry w f s).host = s.host := rfl
@[simp] theorem faultEntry_answer (w : Word) (f : Raise) (s : State) : (faultEntry w f s).answer = some (.write .error) := rfl

/-! ### `resetAction` -/

@[simp] theorem resetAction_fault (s : State) : (resetAction s).fault = false := rfl
@[simp] theorem resetAction_err (s : State) : (resetAction s).err = 0 := rfl
@[simp] theorem resetAction_errInfo (s : State) : (resetAction s).errInfo = 0 := rfl
@[simp] theorem resetAction_errCmd (s : State) : (resetAction s).errCmd = 0 := rfl
@[simp] theorem resetAction_result (s : State) : (resetAction s).result = 0 := rfl
@[simp] theorem resetAction_src (s : State) : (resetAction s).src = 0 := rfl
@[simp] theorem resetAction_width (s : State) : (resetAction s).width = 0 := rfl
@[simp] theorem resetAction_height (s : State) : (resetAction s).height = 0 := rfl
@[simp] theorem resetAction_len (s : State) : (resetAction s).len = 0 := rfl
@[simp] theorem resetAction_pal (s : State) : (resetAction s).pal = 0 := rfl
@[simp] theorem resetAction_dst (s : State) : (resetAction s).dst = 0 := rfl
@[simp] theorem resetAction_quad (s : State) : (resetAction s).quad = 0 := rfl
@[simp] theorem resetAction_color (s : State) : (resetAction s).color = 0 := rfl
@[simp] theorem resetAction_chunkMagic (s : State) : (resetAction s).chunkMagic = ⟨0, 0, 0, 0⟩ := rfl
@[simp] theorem resetAction_chunkLen (s : State) : (resetAction s).chunkLen = ⟨0, 0, 0, 0⟩ := rfl
@[simp] theorem resetAction_pix (s : State) : (resetAction s).pix = [] := rfl
@[simp] theorem resetAction_palTable (s : State) : (resetAction s).palTable = [] := rfl
@[simp] theorem resetAction_chunk (s : State) : (resetAction s).chunk = [] := rfl
@[simp] theorem resetAction_tile (s : State) : (resetAction s).tile = [] := rfl
@[simp] theorem resetAction_bg (s : State) : (resetAction s).bg = [] := rfl
@[simp] theorem resetAction_cfg (s : State) : (resetAction s).cfg = s.cfg := rfl
@[simp] theorem resetAction_draw (s : State) : (resetAction s).draw = s.draw + 1 := rfl
@[simp] theorem resetAction_host (s : State) : (resetAction s).host = s.host := rfl
@[simp] theorem resetAction_answer (s : State) : (resetAction s).answer = none := rfl

end Sys2Proof.Machine
end

