-- ==== Sys2Proof/Laws/Commands.lean ====
section
/-! SUPPORT. What the pseudocode of a command can end in, once for all commands. -/

namespace Sys2Proof.Machine

/-- The pseudocode of each command. -/
def bodyOf : Instr → State → Ending
  | .nop => nopBody
  | .find => findBody
  | .pack => packBody
  | .slice => sliceBody
  | .autotile => autotileBody
  | .illum => illumBody

/-- Every command runs its pseudocode in the one frame of R98. -/
theorem exec_eq (i : Instr) (s : State) : exec i s = .next (runCommand (encode i) (bodyOf i) s) := by
  cases i <;> rfl

/-- A command that ends without a fault has written RESULT, TILE and BG at most (R31). -/
theorem body_done {i : Instr} {s t : State} (h : bodyOf i s = .done t) :
    t = { s with result := t.result, tile := t.tile, bg := t.bg } := by
  cases i <;> simp only [bodyOf, nopBody, findBody, packBody, sliceBody, autotileBody, illumBody] at h
  all_goals (repeat' split at h) <;> cases h
  all_goals rfl

/-- A command that raises a fault has written nothing, but for FIND's sentinel (R111). -/
theorem body_raised {i : Instr} {s t : State} {f : Raise} (h : bodyOf i s = .raised t f) :
    t = { s with result := if i = .find ∧ f.code = .colorNotInPalette then 4 else s.result } := by
  cases i <;> simp only [bodyOf, nopBody, findBody, packBody, sliceBody, autotileBody, illumBody, operandRange] at h
  all_goals (repeat' split at h) <;> cases h
  all_goals rfl

/-- A command after which FAULT is 0 ran to its end. -/
theorem exec_completed {i : Instr} {s t : State} (he : exec i s = .next t) (ht : t.fault = false) :
    s.fault = false ∧ ∃ u, bodyOf i s = .done u ∧ t = respond (.write .ok) u := by
  rw [exec_eq] at he
  cases he
  cases hf : s.fault with
  | true => rw [runCommand_faulted _ _ hf] at ht; simp [hf] at ht
  | false =>
    cases hb : bodyOf i s with
    | done u => exact ⟨rfl, u, rfl, runCommand_done hf hb⟩
    | raised u f => rw [runCommand_raised hf hb] at ht; simp at ht

end Sys2Proof.Machine
end

