-- ==== Sys2Proof/Laws/Packer.lean ====
section
/-! SUPPORT. The laws of the tile packer and of the slicer's writes. -/

namespace Sys2Proof.Machine

/-- Bit c of a row byte of a plane is the plane's bit of the index of column c (R68, R120). -/
theorem planeByte_bit (f index : Nat → Nat) (hf : ∀ i, f i ≤ 1) {c : Nat} (hc : c < 8) :
    bitField (planeByte f index) c c = f (index c) := by
  have h := fun i => hf (index i)
  have := h 0
  have := h 1
  have := h 2
  have := h 3
  have := h 4
  have := h 5
  have := h 6
  have := h 7
  simp only [bitField, planeByte, truncNat, show List.range 8 = [0, 1, 2, 3, 4, 5, 6, 7] from rfl, List.map,
    List.sum_cons, List.sum_nil, BitVec.toNat_ofNat, show c + 1 - c = 1 by omega]
  have : c = 0 ∨ c = 1 ∨ c = 2 ∨ c = 3 ∨ c = 4 ∨ c = 5 ∨ c = 6 ∨ c = 7 := by omega
  rcases this with rfl | rfl | rfl | rfl | rfl | rfl | rfl | rfl <;> omega

/-- Byte r of a tile is row r of plane `bit0`. -/
theorem tileBytes_bit0 (s : State) (p : Nat) (addr : Nat → Nat → Nat) {r : Nat} (hr : r < 8) :
    (tileBytes s p addr).getD r 0 = planeByte (fun i => i % 2) (fun c => findIndex s p (readPix s (addr r c))) := by
  have : r = 0 ∨ r = 1 ∨ r = 2 ∨ r = 3 ∨ r = 4 ∨ r = 5 ∨ r = 6 ∨ r = 7 := by omega
  rcases this with rfl | rfl | rfl | rfl | rfl | rfl | rfl | rfl <;> rfl

/-- Byte 8 + r of a tile is row r of plane `bit1`. -/
theorem tileBytes_bit1 (s : State) (p : Nat) (addr : Nat → Nat → Nat) {r : Nat} (hr : r < 8) :
    (tileBytes s p addr).getD (8 + r) 0 =
      planeByte (fun i => i / 2 % 2) (fun c => findIndex s p (readPix s (addr r c))) := by
  have : r = 0 ∨ r = 1 ∨ r = 2 ∨ r = 3 ∨ r = 4 ∨ r = 5 ∨ r = 6 ∨ r = 7 := by omega
  rcases this with rfl | rfl | rfl | rfl | rfl | rfl | rfl | rfl <;> rfl

theorem mem_tileWrites {t : Nat} {bytes : List Byte} {e : Nat × Byte} :
    e ∈ tileWrites t bytes ↔ ∃ b < 16, e = (tileIndex t b, bytes.getD b 0) := by
  simp [tileWrites, eq_comm]

theorem tileWrites_keys (t : Nat) (bytes : List Byte) :
    (tileWrites t bytes).map Prod.fst = (List.range 16).map (tileIndex t) := by
  simp [tileWrites]

theorem tileWrites_nodup (t : Nat) (bytes : List Byte) : ((tileWrites t bytes).map Prod.fst).Nodup := by
  rw [tileWrites_keys]
  exact List.Nodup.map (fun a b h => by simp [tileIndex] at h; omega) List.nodup_range

/-- The tiles of a sheet are written to their own bytes. -/
theorem sheetWrites_key_bounds {t : Nat} {tiles : List (List Byte)} {a : Nat}
    (h : a ∈ (sheetWrites t tiles).map Prod.fst) : 16 * t ≤ a ∧ a < 16 * (t + tiles.length) := by
  induction tiles generalizing t with
  | nil => simp [sheetWrites] at h
  | cons bytes tiles ih =>
    simp only [sheetWrites, List.map_append, List.mem_append] at h
    rcases h with h | h
    · rw [tileWrites_keys] at h
      simp [tileIndex] at h
      simp
      omega
    · have := ih h
      simp
      omega

theorem sheetWrites_nodup (t : Nat) (tiles : List (List Byte)) : ((sheetWrites t tiles).map Prod.fst).Nodup := by
  induction tiles generalizing t with
  | nil => exact List.nodup_nil
  | cons bytes tiles ih =>
    simp only [sheetWrites, List.map_append]
    rw [List.nodup_append]
    refine ⟨tileWrites_nodup t bytes, ih (t + 1), ?_⟩
    intro a ha b hb
    have := sheetWrites_key_bounds hb
    rw [tileWrites_keys] at ha
    simp [tileIndex] at ha
    omega

theorem mem_scanOrder {addr : Nat → Nat → Nat} {a : Nat} :
    a ∈ scanOrder addr ↔ ∃ r < 8, ∃ c < 8, addr r c = a := by
  simp [scanOrder]

/-- Pixel (r, c) stands at place 8*r + c of the scan (R120). -/
theorem scanOrder_get (addr : Nat → Nat → Nat) {r c : Nat} (hr : r < 8) (hc : c < 8) :
    (scanOrder addr)[8 * r + c]? = some (addr r c) := by
  have h1 : r = 0 ∨ r = 1 ∨ r = 2 ∨ r = 3 ∨ r = 4 ∨ r = 5 ∨ r = 6 ∨ r = 7 := by omega
  have h2 : c = 0 ∨ c = 1 ∨ c = 2 ∨ c = 3 ∨ c = 4 ∨ c = 5 ∨ c = 6 ∨ c = 7 := by omega
  rcases h1 with rfl | rfl | rfl | rfl | rfl | rfl | rfl | rfl <;>
    rcases h2 with rfl | rfl | rfl | rfl | rfl | rfl | rfl | rfl <;> rfl

/-- The packer succeeds when no pixel's colour is missing from the palette. -/
theorem packCell_ok {s : State} {p : Nat} {addr : Nat → Nat → Nat}
    (h : ∀ r < 8, ∀ c < 8, badPixel s p (addr r c) = false) : packCell s p addr = .ok (tileBytes s p addr) := by
  unfold packCell
  have : (scanOrder addr).find? (badPixel s p) = none := by
    rw [List.find?_eq_none]
    intro a ha
    obtain ⟨r, hr, c, hc, rfl⟩ := mem_scanOrder.1 ha
    simp [h r hr c hc]
  rw [this]

/-- What the packer can answer: the tile, or the fault of a pixel of the cell whose colour is missing (R120, R192). -/
theorem packCell_cases (s : State) (p : Nat) (addr : Nat → Nat → Nat) :
    packCell s p addr = .ok (tileBytes s p addr)
      ∨ ∃ r < 8, ∃ c < 8, badPixel s p (addr r c) = true
          ∧ packCell s p addr = .error ⟨.colorNotInPalette, addr r c⟩ := by
  unfold packCell
  cases h : (scanOrder addr).find? (badPixel s p) with
  | none => exact .inl rfl
  | some a =>
    obtain ⟨r, hr, c, hc, rfl⟩ := mem_scanOrder.1 (List.mem_of_find?_eq_some h)
    exact .inr ⟨r, hr, c, hc, List.find?_some h, rfl⟩

end Sys2Proof.Machine
end

