-- ==== Sys2Proof/Laws/PerInstr.lean ====
section
/-! SUPPORT. What holds of each command as syntax: its word is legal, and has 0 in bits 31:8 and the opcode in bits 7:0
(R90, R91). -/

namespace Sys2Proof.Laws.Codec

/-- The command is well formed, its word is a legal one, and the word's two fields are 0 and the opcode. -/
def Statement (i : Instr) : Prop :=
  i.wf = true ∧ legalWord (encode i) = true
    ∧ Machine.bitField (encode i) 31 8 = 0 ∧ Machine.bitField (encode i) 7 0 = opcode i

theorem nop : Statement .nop := by unfold Statement; decide

theorem find : Statement .find := by unfold Statement; decide

theorem pack : Statement .pack := by unfold Statement; decide

theorem slice : Statement .slice := by unfold Statement; decide

theorem autotile : Statement .autotile := by unfold Statement; decide

theorem illum : Statement .illum := by unfold Statement; decide

end Sys2Proof.Laws.Codec
end

