-- ==== Sys2Proof/Laws/Step.lean ====
section
/-! SUPPORT. Everything one step can do, said once. -/

namespace Sys2Proof.Machine

/-- What performing a transaction makes of the state `s`, case by case (R61, R98, R220). -/
inductive TransactCase (s : State) : Transaction → State → Prop
  | read (a : Word) : TransactCase s (.read a) (respond (hostRead s a) s)
  | reset : TransactCase s .resetPin (resetAction s)
  | command (a v : Word) (i : Instr) (ha : elementAt s.cfg.toCfg a.toNat = some (.reg .cmd)) (hv : decode v = .command i) :
      TransactCase s (.write a v) (runCommand (encode i) (bodyOf i) s)
  | illegal (a v w : Word) (ha : elementAt s.cfg.toCfg a.toNat = some (.reg .cmd)) (hv : decode v = .illegalCommand w) :
      TransactCase s (.write a v) (illegalCommand w s)
  | control (a v : Word) (ha : elementAt s.cfg.toCfg a.toNat = some (.reg .ctrl)) :
      TransactCase s (.write a v) (writeControl v s)
  | element (a v : Word) (e : Element) (ha : elementAt s.cfg.toCfg a.toNat = some e) (he : elementAccess e = .rw) :
      TransactCase s (.write a v) (respond (.write .ok) (writeElement s e v))
  | refused (a v : Word)
      (ha : elementAt s.cfg.toCfg a.toNat = none
        ∨ ∃ e, elementAt s.cfg.toCfg a.toNat = some e ∧ elementAccess e = .ro) :
      TransactCase s (.write a v) (respond (.write .error) s)

/-- Every transaction completes, in one of the cases. -/
theorem transact_cases (s : State) (x : Transaction) : ∃ t, transact x s = .next t ∧ TransactCase s x t := by
  cases x with
  | read a => exact ⟨_, rfl, .read a⟩
  | resetPin => exact ⟨_, rfl, .reset⟩
  | write a v =>
    unfold transact
    by_cases hc : namesCommand s a = true
    · have ha : elementAt s.cfg.toCfg a.toNat = some (.reg .cmd) := by simpa [namesCommand] using hc
      simp only [hc, if_true, commandWrite]
      cases hv : decode v with
      | command i => exact ⟨_, exec_eq i s, .command a v i ha hv⟩
      | illegalCommand w => exact ⟨_, rfl, .illegal a v w ha hv⟩
    · simp only [hc, hostWrite]
      refine ⟨_, rfl, ?_⟩
      cases ha : elementAt s.cfg.toCfg a.toNat with
      | none => exact .refused a v (.inl ha)
      | some e =>
        have hro : elementAccess e = .ro → TransactCase s (.write a v) (respond (.write .error) s) :=
          fun h => .refused a v (.inr ⟨e, ha, h⟩)
        cases e with
        | reg r =>
          cases r
          case ctrl => exact .control a v ha
          case cmd => exact absurd (by simp [namesCommand, ha]) hc
          all_goals first
            | exact hro rfl
            | exact .element a v _ ha rfl
        | bg i => exact hro rfl
        | tile t b => exact hro rfl
        | pal p i => exact .element a v _ ha rfl
        | chunk p i => exact .element a v _ ha rfl
        | pix i => exact .element a v _ ha rfl

/-- A step waits, or performs the next transaction. -/
theorem step_cases {s t : State} (h : step s = .next t) :
    (s.host = [] ∧ t = s)
      ∨ ∃ x rest, s.host = x :: rest ∧ TransactCase { s with host := rest } x t := by
  unfold step at h
  split at h
  · rename_i hh
    cases h
    exact .inl ⟨hh, rfl⟩
  · rename_i x rest hh
    obtain ⟨u, hu, hc⟩ := transact_cases { s with host := rest } x
    rw [hu] at h
    cases h
    exact .inr ⟨x, rest, hh, hc⟩

end Sys2Proof.Machine
end

