-- ==== Sys2Proof/Tests/Slice0.lean ====
section
/-! SUPPORT. Tests: words written out bit by bit from R90 and R91, ill-formed terms refused, one or two steps of each command
(95_test_vectors.md names the vector), and for each obligation with hypotheses a state that meets them. -/

namespace Sys2Proof.Machine.Tests

/-! ### Decoding: the words of R91, bits 31:8 then bits 7:0 -/

theorem test_decode_nop : decode 0b000000000000000000000000_00000000#32 = .command .nop := by decide

theorem test_decode_find : decode 0b000000000000000000000000_00000001#32 = .command .find := by decide

theorem test_decode_pack : decode 0b000000000000000000000000_00000010#32 = .command .pack := by decide

theorem test_decode_slice : decode 0b000000000000000000000000_00000011#32 = .command .slice := by decide

theorem test_decode_autotile : decode 0b000000000000000000000000_00000100#32 = .command .autotile := by decide

theorem test_decode_illum : decode 0b000000000000000000000000_00000101#32 = .command .illum := by decide

theorem test_decode_six : decode 0b000000000000000000000000_00000110#32 = .illegalCommand 6 := by decide

theorem test_decode_bit8 : decode 0b000000000000000000000001_00000000#32 = .illegalCommand 0x100 := by decide

theorem test_decode_bit31 : decode 0b100000000000000000000000_00000001#32 = .illegalCommand 0x80000001 := by decide

/-! ### Ill-formed terms are refused -/

theorem test_word_opcode_refused : legalWord 6 = false := by decide

theorem test_word_zero_field_refused : legalWord 0x100 = false := by decide

theorem test_word_ones_refused : legalWord 0xFFFFFFFF = false := by decide

theorem test_cfg_odd_width : cfgLegal { smallCfg.toCfg with bgW := 11 } = false := by decide

theorem test_cfg_no_width : cfgLegal { smallCfg.toCfg with bgW := 0 } = false := by decide

theorem test_cfg_odd_height : cfgLegal { smallCfg.toCfg with bgH := 9 } = false := by decide

theorem test_cfg_no_height : cfgLegal { smallCfg.toCfg with bgH := 0 } = false := by decide

theorem test_cfg_map_too_big : cfgLegal { smallCfg.toCfg with bgW := 4098, bgH := 2 } = false := by decide

theorem test_cfg_quadrant_too_big : cfgLegal { smallCfg.toCfg with bgW := 66, bgH := 64 } = false := by decide

theorem test_cfg_no_pixels : cfgLegal { smallCfg.toCfg with pixN := 0 } = false := by decide

theorem test_cfg_pixels_too_many : cfgLegal { smallCfg.toCfg with pixN := 65537 } = false := by decide

theorem test_cfg_no_tiles : cfgLegal { smallCfg.toCfg with tileN := 0 } = false := by decide

theorem test_cfg_tiles_too_many : cfgLegal { smallCfg.toCfg with tileN := 257 } = false := by decide

theorem test_lut_short_row : lutLegal { defaultLut with topRow := [] } = false := by decide

/-- A source-settled entry, CROSS at interior mask 15, is fixed. -/
theorem test_lut_settled_entry : lutLegal { defaultLut with interior := List.replicate 16 .top } = false := by decide

/-- The pair LEFT, RIGHT of a `b` entry allows no third variant. -/
theorem test_lut_bounded_entry : lutAllows .interior 3 .cross = false := by decide

theorem test_memory_unsorted : ¬Memory.wf ([(2, 0x00), (1, 0x00)] : Memory 8) := by decide

theorem test_memory_repeated : ¬Memory.wf ([(1, 0x00), (1, 0x01)] : Memory 8) := by decide

/-! ### Small states -/

/-- Elements from number `base` on. -/
def elements {w : Nat} (base : Nat) (vs : List (BitVec w)) : Memory w := vs.zipIdx.map fun v => (base + v.2, v.1)

/-- The state after an execution that ends in a next state. -/
def ended (o : Host.Outcome State Fault Refusal) : State :=
  match o with
  | .next t => t
  | .fault _ => State.reset
  | .refused _ => State.reset

/-- After reset, with the 10 x 10 map of SMALLCFG. -/
def small : State := { State.reset with cfg := smallCfg }

/-- Palette `p` is the vectors' palette P, and the other elements of PAL are not written. -/
def withPalette (p : Nat) (s : State) : State :=
  { s with palTable := elements (4 * p) [0x00000000, 0xFF0000FF, 0xFF00FF00, 0xFFFF0000], pal := BitVec.ofNat 32 p }

/-- Colour number `i` of palette P. -/
def colour (i : Nat) : Word :=
  match i with
  | 0 => 0x00000000
  | 1 => 0xFF0000FF
  | 2 => 0xFF00FF00
  | _ => 0xFFFF0000

/-- FIND's state of V-FIND: PAL[3] = [P1, P2, P1, P3]. -/
def findState (c : Word) : State :=
  { small with
    palTable := elements 12 [0xFF0000FF, 0xFF00FF00, 0xFF0000FF, 0xFFFF0000], pal := 3, color := c }

/-- PACK's state of V-PACK-1: pixel (r, c) has index (r + c) mod 4. -/
def packState : State :=
  { withPalette 1 small with
    pix := elements 0 ((List.range 64).map fun i => colour ((i / 8 + i % 8) % 4)), len := 64, dst := 5 }

/-- V-PACK-6: V-PACK-1 with two colours that are not in the palette. -/
def packBadState : State :=
  { packState with pix := memInsert (memInsert packState.pix 9 0x12345678) 20 0x0BADC0DE }

/-- PACK at the upper bound of every operand: palette 7, the last 64 pixels, the last tile. -/
def packEdge : State :=
  { withPalette 7 small with
    pix := elements 960 (List.replicate 64 0xFFFF0000), src := 960, len := 64, dst := 255, width := 8, height := 8 }

/-- A 16 x 16 sheet at `base` with the index `f x y` at column x, row y. -/
def sheetState (base : Nat) (f : Nat → Nat → Nat) : State :=
  { withPalette 1 small with
    pix := elements base ((List.range 256).map fun i => colour (f (i % 16) (i / 16)))
    src := BitVec.ofNat 32 base
    width := 16
    height := 16 }

/-- V-SLICE-1, with DST 10. -/
def sliceState : State :=
  { sheetState 200 (fun x y =>
      if x = 0 ∧ y = 8 then 3 else if x = 15 ∧ y = 15 then 0
      else (if 8 ≤ y then 2 else 0) + (if 8 ≤ x then 1 else 0)) with dst := 10 }

/-- V-SLICE-5: an all-P0 sheet with bad pixels 50, 156 and 201. -/
def sliceBadState : State :=
  let s := sheetState 0 fun _ _ => 0
  { s with pix := memInsert (memInsert (memInsert s.pix 50 0x01020304) 201 0x01020304) 156 0x01020304 }

/-- SLICE at its upper bounds: the sheet ends where PIX ends, the tiles end where TILE ends. -/
def sliceEdge : State := { sheetState 768 (fun x y => (x + y) % 4) with dst := 252 }

/-- The characters of a quadrant. -/
def cells (ds : List Nat) : List Byte := ds.map fun d => if d = 1 then 0x31 else 0x30

/-- The chunks of V-AUTO-1. -/
def levelChunks : Memory 8 :=
  elements 0x000 (cells [0,0,1,0,0, 0,0,0,0,0, 1,0,1,0,1, 0,0,0,0,0, 0,0,1,0,0])
    ++ elements 0x400 (cells [0,0,0,0,0, 0,1,1,1,0, 0,1,0,1,0, 0,1,1,1,0, 0,0,0,0,0])
    ++ elements 0x800 (cells [1,1,1,1,1, 1,0,1,0,1, 1,1,1,1,1, 1,0,1,0,1, 1,1,1,1,1])
    ++ elements 0xC00 (cells [1,1,0,0,0, 1,0,0,0,0, 0,0,0,0,0, 0,0,0,0,0, 0,0,0,0,0])

/-- V-AUTO-1, before AUTOTILE. The register values of the identifiers are those of R32. -/
def levelState : State :=
  { small with
    chunk := levelChunks
    chunkMagic := ⟨0x4C4C5F51, 0x524C5F51, 0x4C555F51, 0x52555F51⟩
    chunkLen := ⟨25, 25, 25, 25⟩ }

/-- V-AUTO-1, after AUTOTILE. -/
def mapState : State := ended (exec .autotile levelState)

/-- A faulted state: V-SYS-3, then V-SYS-4. -/
def faultedState : State := { small with fault := true, err := 7, errInfo := 6, errCmd := 6 }

/-- The state whose next transaction is `x`. -/
def facing (x : Transaction) (s : State) : State := { s with host := [x] }

/-! ### One step of each command -/

/-- V-SYS-2. -/
theorem test_nop_keeps_result :
    (ended (exec .nop { small with result := 3 })).result = 3
      ∧ (ended (exec .nop { small with result := 3 })).answer = some (.write .ok) := by decide

/-- V-FIND-1. -/
theorem test_find_duplicate :
    (ended (exec .find (findState 0xFF0000FF))).result = 0
      ∧ (ended (exec .find (findState 0xFFFF0000))).result = 3 := by decide

/-- V-FIND-4: equal but for alpha. -/
theorem test_find_miss :
    (ended (exec .find (findState 0x000000FF))).result = 4 ∧ (ended (exec .find (findState 0x000000FF))).err = 1
      ∧ (ended (exec .find (findState 0x000000FF))).errInfo = 0x000000FF
      ∧ (ended (exec .find (findState 0x000000FF))).errCmd = 1 := by decide

/-- V-PACK-1: the tile, as its listed bytes. -/
theorem test_pack_tile :
    (ended (exec .pack packState)).tile = elements 80
      [0xAA, 0x55, 0xAA, 0x55, 0xAA, 0x55, 0xAA, 0x55, 0xCC, 0x66, 0x33, 0x99, 0xCC, 0x66, 0x33, 0x99] := by
  decide +kernel

/-- V-PACK-6: the first bad pixel, and nothing committed. -/
theorem test_pack_bad_pixel :
    (ended (exec .pack packBadState)).errInfo = 9 ∧ (ended (exec .pack packBadState)).tile = []
      ∧ (ended (exec .pack packBadState)).result = 0 := by decide +kernel

/-- V-SLICE-1: bytes 0 and 8 of the first tile, bytes 7 and 15 of the second, and a byte of the third and fourth. -/
theorem test_slice_order :
    (ended (exec .slice sliceState)).result = 4
      ∧ [(10, 0), (10, 1), (10, 8), (11, 6), (11, 7), (11, 15), (12, 8), (13, 0), (13, 8), (14, 0)].map
          (fun x => readTile (ended (exec .slice sliceState)) x.1 x.2)
        = [0x01, 0x00, 0xFF, 0xFF, 0x7F, 0x7F, 0x00, 0xFF, 0x00, 0x00] := by decide +kernel

/-- V-SLICE-5: the first bad pixel in the order of the cells; V-SLICE-4, last line: W*H does not wrap. -/
theorem test_slice_faults :
    (ended (exec .slice sliceBadState)).err = 1 ∧ (ended (exec .slice sliceBadState)).errInfo = 156
      ∧ (ended (exec .slice sliceBadState)).tile = []
      ∧ (ended (exec .slice { withPalette 0 small with width := 0x80000000, height := 0x80000000 })).err = 8
      ∧ (ended (exec .slice { withPalette 0 small with width := 0x80000000, height := 0x80000000 })).errInfo = 1 := by
  decide +kernel

/-- V-AUTO-1: the table of the vector, row by row. -/
theorem test_autotile_map :
    mapState.bg = elements 0
        ([0x0110, 0x0111, 0x0111, 0x0111, 0x0112, 0x0110, 0x0112, 0x0020, 0x0020, 0x0020]
          ++ [0x0113, 0x0020, 0x0115, 0x0020, 0x0115, 0x0110, 0x0020, 0x0020, 0x0020, 0x0020]
          ++ [0x0113, 0x0111, 0x0114, 0x0111, 0x0115, 0x0020, 0x0020, 0x0020, 0x0020, 0x0020]
          ++ [0x0113, 0x0020, 0x0115, 0x0020, 0x0115, 0x0020, 0x0020, 0x0020, 0x0020, 0x0020]
          ++ [0x0116, 0x0117, 0x0117, 0x0117, 0x0118, 0x0020, 0x0020, 0x0020, 0x0020, 0x0020]
          ++ [0x0020, 0x0020, 0x0110, 0x0020, 0x0020, 0x0020, 0x0020, 0x0020, 0x0020, 0x0020]
          ++ [0x0020, 0x0020, 0x0020, 0x0020, 0x0020, 0x0020, 0x0116, 0x0111, 0x0118, 0x0020]
          ++ [0x0113, 0x0020, 0x0110, 0x0020, 0x0115, 0x0020, 0x0115, 0x0020, 0x0115, 0x0020]
          ++ [0x0020, 0x0020, 0x0020, 0x0020, 0x0020, 0x0020, 0x0110, 0x0111, 0x0112, 0x0020]
          ++ [0x0020, 0x0020, 0x0116, 0x0020, 0x0020, 0x0020, 0x0020, 0x0020, 0x0020, 0x0020])
      ∧ mapState.result = 37 := by decide +kernel

/-- V-AUTO-6: the identifier before the length within a slot. -/
theorem test_autotile_slot_order :
    (ended (exec .autotile
        { levelState with
          chunkMagic := slotSet levelState.chunkMagic 2 0x4C4C5F51, chunkLen := slotSet levelState.chunkLen 2 24 })).err = 4
      ∧ (ended (exec .autotile
        { levelState with
          chunkMagic := slotSet levelState.chunkMagic 2 0x4C4C5F51, chunkLen := slotSet levelState.chunkLen 1 24 })).errInfo
        = 1 := by decide +kernel

/-- V-ILLUM-1, the first part. -/
theorem test_illum_map :
    (ended (exec .illum { mapState with quad := 3 })).result = 3
      ∧ [0, 5, 6, 7, 15, 66].map (readBg (ended (exec .illum { mapState with quad := 3 })))
        = [0x0110, 0x0210, 0x0212, 0x0020, 0x0210, 0x0116] := by decide +kernel

/-- V-ILLUM-4: bits 15:11 are cleared and a foreign tile byte is kept. -/
theorem test_illum_foreign_cell :
    readBg (ended (exec .illum
      { small with chunk := elements 0x800 (0x31 :: List.replicate 24 0x30), bg := [(0, 0xEEEE)], quad := 2 })) 0
      = 0x02EE := by decide +kernel

/-! ### The host port -/

/-- V-SYS-1 and V-SYS-5: the identification word; an address past PAL. -/
theorem test_read_id_and_gap :
    hostRead small 0 = .read .ok 0x54425031 ∧ hostRead small 0x120 = .read .error 0
      ∧ hostRead { small with cfg := refCfg } 0x10F0 = .read .error 0
      ∧ hostRead { small with cfg := refCfg } 0x23C0 = .read .error 0
      ∧ hostRead { small with cfg := refCfg } 0x14000 = .read .error 0 := by decide +kernel

/-- V-SYS-6: a character keeps the low byte; a register keeps all bits. -/
theorem test_write_widths :
    hostRead (hostWrite small 0x1000 0x12345631) 0x1000 = .read .ok 0x31
      ∧ hostRead (hostWrite small 9 0xFFFFFFF8) 9 = .read .ok 0xFFFFFFF8 := by decide

/-- V-SYS-5: writes of read-only elements. -/
theorem test_write_read_only :
    (hostWrite small 7 1).answer = some (.write .error) ∧ (hostWrite small 7 1).result = 0
      ∧ (hostWrite small 0x4000 0xFF).answer = some (.write .error) ∧ (hostWrite small 0x4000 0xFF).tile = [] := by
  decide

/-- V-SYS-3: an illegal word. -/
theorem test_illegal_word :
    (ended (step (facing (.write 6 0x100) small))).err = 7
      ∧ (ended (step (facing (.write 6 0x100) small))).errInfo = 0x100
      ∧ (ended (step (facing (.write 6 0x100) small))).errCmd = 0x100 := by decide

/-- V-SYS-4: refused while faulted; the soft reset is the way out. -/
theorem test_faulted_and_reset :
    (ended (step (facing (.write 6 7) faultedState))).errInfo = 6
      ∧ (ended (step (facing (.write 1 1) faultedState))).fault = false
      ∧ (ended (step (facing (.write 1 0) faultedState))).fault = true
      ∧ (ended (step (facing (.write 8 0x1234) faultedState))).src = 0x1234 := by decide

/-- R97: LDPAL and a command line, as transactions. -/
theorem test_pseudo_instructions :
    (loadPalLines 1 0 1 2 3).map lineTransaction
        = [.write 0x104 0, .write 0x105 1, .write 0x106 2, .write 0x107 3]
      ∧ lineTransaction (commandLine .pack) = .write 6 2 ∧ lineTransaction resetLine = .write 1 1
      ∧ (loadChunkLines 3 [0x31]).map lineTransaction
        = [.write 0x1C00 0x31, .write 0x13 0x52555F51, .write 0x17 1] := by decide

/-- Program 4 of 95_test_vectors.md, the line `PACK!`: the response the line demands is the one it gets. -/
theorem test_line_response :
    ((ended (step (facing (lineTransaction (commandErrorLine .pack)) { small with len := 63 }))).answer.map
      (lineAccepts (commandErrorLine .pack))) = some true := by decide

/-- R65: a read of an unmapped address is no transaction of an admitted program, a command write always is. -/
theorem test_admitted :
    admittedTransaction small (.read 0x18) = false ∧ admittedTransaction small (.write 7 1) = false
      ∧ admittedTransaction small (.write 6 6) = true ∧ admittedTransaction small (.read 8) = true := by decide

/-- R234, R235: ILLUM without AUTOTILE, with a chunk written in between, with QUAD written in between, and after an AUTOTILE
that faults (an identifier of 0). -/
theorem test_lighting_hazard :
    lightsDecodedMap false levelState [.write 6 5] = false
      ∧ lightsDecodedMap false levelState [.write 6 4, .write 0x1000 0x31, .write 6 5] = false
      ∧ lightsDecodedMap false levelState [.write 6 4, .write 0x0E 1, .write 6 5] = true
      ∧ lightsDecodedMap false levelState [.write 0x10 0, .write 6 4, .write 6 5] = false := by decide

/-- R236: a PACK after AUTOTILE, the renderer being live from there (log 23). R230: a PACK before its palette. -/
theorem test_table_hazards :
    keepsTables smallCfg.toCfg false [.write 6 4, .write 6 2] = false
      ∧ keepsTables smallCfg.toCfg false [.write 6 2, .write 6 4] = true
      ∧ loadsPaletteFirst smallCfg.toCfg 0 [] [.write 6 2] = false := by decide

/-- R231, R232: the fifth pixel of the palette image is PAL[1][0]; a chunk read with a wrong identifier and length is handed
over as read. -/
theorem test_host_loads :
    ((loadPaletteImageLines [0, 1, 2, 3, 4]).map lineTransaction)[4]? = some (.write 0x104 4)
      ∧ (fileChunkLines 2 ⟨0x12345678, 7, [0x30]⟩).map lineTransaction
        = [.write 0x1800 0x30, .write 0x12 0x12345678, .write 0x16 7] := by decide

/-- A declared length of 25, and one of 2^32 + 25, which is not 25 (log 21). -/
theorem test_declared_length :
    declaredLength 25 = 25 ∧ declaredLength 0x100000019 = 0xFFFFFFFF ∧ declaredLength 0xFFFFFFFF = 0xFFFFFFFF := by
  decide

/-- R232: a payload of another length, and one with another character, break the encoder's promise. -/
theorem test_payload_promise :
    payloadPromised smallCfg.toCfg (List.replicate 25 0x31) = true
      ∧ payloadPromised smallCfg.toCfg (List.replicate 24 0x31) = false
      ∧ payloadPromised smallCfg.toCfg (List.replicate 25 0x32) = false := by decide

/-- R233: palettes 0, 1 and 2 of SMALLCFG have to be written before the map is shown. -/
theorem test_tables_ready :
    tablesReady { small with palTable := elements 0 (List.replicate 12 0) } = true
      ∧ tablesReady { small with palTable := elements 0 (List.replicate 11 0) } = false := by decide

/-- R44: memory nothing has written holds the free value of its element, another one after the next reset. -/
theorem test_unwritten_pixel :
    readPix small 0 = Config.freePix 0 0 ∧ readPix (resetAction small) 0 = Config.freePix 1 0
      ∧ readTile small 255 15 = 0 := ⟨rfl, rfl, rfl⟩

/-! ### Witnesses: for each obligation with hypotheses, concrete values that meet them -/

theorem witness_DecoderIsExact :
    (5 : Word).toNat ≤ 5 ∧ 5 < (6 : Word).toNat ∧ 5 < ((6 : Word).extractLsb' 0 8).toNat
      ∧ (0x100 : Word).extractLsb' 8 24 ≠ 0 := by decide

theorem witness_DecodeEncodeAgree : Instr.wf .illum = true ∧ decode 5 = .command .illum := by decide

theorem witness_StepRunsDecodedCommand :
    (facing (.write 6 3) sliceState).host = .write 0x06 3 :: [] ∧ decode 3 = .command .slice := by decide

theorem witness_StepIllegalWordFaults :
    (facing (.write 6 6) small).host = .write 0x06 6 :: [] ∧ (facing (.write 6 6) small).fault = false
      ∧ 5 < ((6 : Word).extractLsb' 0 8).toNat
      ∧ (facing (.write 6 0x100) small).host = .write 0x06 0x100 :: [] ∧ (0x100 : Word).extractLsb' 8 24 ≠ 0 := by decide

theorem witness_FaultedRefusesCommandWrites :
    (facing (.write 6 0) faultedState).host = .write 0x06 0 :: [] ∧ (facing (.write 6 0) faultedState).fault = true := by
  decide

/-- No element of the map has the address 0x18 (R21), in any configuration. -/
theorem address_unmapped (c : Cfg) : ∀ e, elementExists c e = true → elementAddr e ≠ 0x18 := by
  intro e _
  cases e with
  | reg r => exact Nat.ne_of_lt (regAddr_lt r)
  | pal p i => simp [elementAddr]; omega
  | chunk q i => simp [elementAddr]; omega
  | bg i => simp [elementAddr]; omega
  | tile t b => simp [elementAddr]; omega
  | pix i => simp [elementAddr]; omega

/-- The last element of PIX, a write-only register, and an unmapped address. -/
theorem witness_HostReadFollowsTable :
    (facing (.read 0x103FF) small).host = .read 0x103FF :: []
      ∧ elementExists smallCfg.toCfg (.pix 1023) = true ∧ elementAddr (.pix 1023) = (0x103FF : Word).toNat
      ∧ elementExists smallCfg.toCfg (.reg .cmd) = true ∧ elementAddr (.reg .cmd) = (0x06 : Word).toNat
      ∧ elementAccess (.reg .cmd) = .wo
      ∧ ∀ e, elementExists smallCfg.toCfg e = true → elementAddr e ≠ (0x18 : Word).toNat :=
  ⟨rfl, by decide, by decide, by decide, by decide, by decide, address_unmapped _⟩

/-- The last character of the last chunk. -/
theorem witness_HostWriteStoresElement :
    (facing (.write 0x1C18 0x12345631) small).host = .write 0x1C18 0x12345631 :: []
      ∧ elementExists smallCfg.toCfg (.chunk 3 24) = true ∧ elementAddr (.chunk 3 24) = (0x1C18 : Word).toNat
      ∧ elementAccess (.chunk 3 24) = .rw := by decide

theorem witness_RefusedAccessChangesNothing :
    (∀ e, elementExists smallCfg.toCfg e = true → elementAddr e ≠ (0x18 : Word).toNat)
      ∧ (facing (.read 0x18) small).host = .read 0x18 :: [] ∧ (facing (.write 0x18 1) small).host = .write 0x18 1 :: []
      ∧ elementExists smallCfg.toCfg (.bg 99) = true ∧ elementAddr (.bg 99) = (0x2063 : Word).toNat
      ∧ elementAccess (.bg 99) = .ro ∧ (facing (.write 0x2063 1) small).host = .write 0x2063 1 :: [] :=
  ⟨address_unmapped _, rfl, rfl, by decide, by decide, rfl, rfl⟩

theorem witness_AddressMapIsExact :
    elementExists smallCfg.toCfg (.tile 255 15) = true ∧ elementExists smallCfg.toCfg (.bg 0) = true
      ∧ elementAt smallCfg.toCfg 0x4FFF = some (.tile 255 15) := by decide

theorem witness_TargetsNameTheirElements : elementExists smallCfg.toCfg (.pal 7 3) = true := by decide

theorem witness_IdleStepChangesNothing : small.host = [] := rfl

/-- Bit 0 is 1, in the FAULTED state; bit 0 is 0 and every other bit is 1. -/
theorem witness_ControlWriteResets :
    (facing (.write 1 1) faultedState).host = .write 0x01 1 :: [] ∧ (1 : Word).getLsbD 0 = true
      ∧ (facing (.write 1 0xFFFFFFFE) faultedState).host = .write 0x01 0xFFFFFFFE :: []
      ∧ (0xFFFFFFFE : Word).getLsbD 0 = false := by decide

/-- The pin and the soft reset, and two states that differ in a memory and in the flag. -/
theorem witness_ResetLeavesTheTable :
    IsReset .resetPin ∧ IsReset (.write 0x01 0xFFFFFFFF)
      ∧ (facing .resetPin packState).host = .resetPin :: [] ∧ (facing .resetPin faultedState).host = .resetPin :: []
      ∧ (facing .resetPin faultedState).cfg = (facing .resetPin packState).cfg
      ∧ (facing .resetPin faultedState).draw = (facing .resetPin packState).draw :=
  ⟨.inl rfl, .inr ⟨0xFFFFFFFF, rfl, by decide⟩, rfl, rfl, rfl, rfl⟩

theorem witness_ResetStateMeetsTable : Reg.src ≠ Reg.id := by decide

/-- FAULT rises, and falls. -/
theorem witness_FaultFlagLifecycle :
    (∃ t, step (facing (.write 6 6) small) = .next t ∧ small.fault = false ∧ t.fault = true)
      ∧ ∃ t, step (facing (.write 1 1) faultedState) = .next t ∧ faultedState.fault = true ∧ t.fault = false :=
  ⟨⟨_, rfl, by decide, by decide⟩, ⟨_, rfl, by decide, by decide⟩⟩

theorem witness_FaultsArePrecise :
    (findState 0x000000FF).fault = false
      ∧ ∃ t, exec .find (findState 0x000000FF) = .next t ∧ t.fault = true ∧ t.err = 1 := by
  refine ⟨rfl, _, rfl, ?_, ?_⟩ <;> decide

theorem witness_NopChangesNothing : small.fault = false ∧ faultedState.fault = true := by decide

/-- PAL is 8; COLOR at the last index of palette 3; COLOR at none. -/
theorem witness_FindFollowsRule :
    (findState 0).fault = false ∧ 7 < ({ findState 0 with pal := 8 } : State).pal.toNat
      ∧ (findState 0xFFFF0000).pal.toNat ≤ 7 ∧ IsIndex (findState 0xFFFF0000) 3 0xFFFF0000 3
      ∧ IsIndex (findState 0xFF0000FF) 3 0xFF0000FF 0
      ∧ ∀ i < 4, readPal (findState 0x000000FF) 3 i ≠ 0x000000FF := by
  unfold IsIndex
  decide

theorem witness_PackWritesTheTile :
    packEdge.fault = false ∧ packEdge.len.toNat = 64 ∧ packEdge.pal.toNat ≤ 7
      ∧ packEdge.src.toNat + 64 ≤ packEdge.cfg.pixN ∧ packEdge.dst.toNat < packEdge.cfg.tileN
      ∧ (∀ r < 8, ∀ c < 8, InPalette packEdge packEdge.pal.toNat (readPix packEdge (packEdge.src.toNat + 8 * r + c)))
      ∧ IsIndex packEdge packEdge.pal.toNat (readPix packEdge (packEdge.src.toNat + 8 * 7 + 7)) 3 := by
  unfold InPalette IsIndex
  decide +kernel

/-- Two buffers that differ in pixel (0, 1) only. -/
theorem witness_PackLanesAreIndependent :
    ∃ t t', exec .pack packState = .next t ∧ exec .pack { packState with pix := memInsert packState.pix 1 0 } = .next t'
      ∧ t.fault = false ∧ t'.fault = false
      ∧ readPix { packState with pix := memInsert packState.pix 1 0 } (packState.src.toNat + 8 * 0 + 2)
        = readPix packState (packState.src.toNat + 8 * 0 + 2) := by
  refine ⟨_, _, rfl, rfl, ?_, ?_, ?_⟩ <;> decide +kernel

/-- Each clause at the first value that its test refuses; the last one with a bad pixel at (1, 1). -/
theorem witness_PackFaultsInOrder :
    packEdge.fault = false ∧ ({ packEdge with len := 63 } : State).len.toNat ≠ 64
      ∧ 7 < ({ packEdge with pal := 8 } : State).pal.toNat
      ∧ packEdge.cfg.pixN < ({ packEdge with src := 961 } : State).src.toNat + 64
      ∧ packEdge.cfg.tileN ≤ ({ packEdge with dst := 256 } : State).dst.toNat
      ∧ packBadState.len.toNat = 64 ∧ packBadState.pal.toNat ≤ 7 ∧ packBadState.src.toNat + 64 ≤ packBadState.cfg.pixN
      ∧ packBadState.dst.toNat < packBadState.cfg.tileN
      ∧ ¬InPalette packBadState packBadState.pal.toNat (readPix packBadState (packBadState.src.toNat + 8 * 1 + 1))
      ∧ ∀ r < 8, ∀ c < 8, 8 * r + c < 8 * 1 + 1 →
          InPalette packBadState packBadState.pal.toNat (readPix packBadState (packBadState.src.toNat + 8 * r + c)) := by
  unfold InPalette
  decide +kernel

theorem witness_InvalidTileSizeOnlyByPack :
    ({ packEdge with len := 65 } : State).fault = false ∧ ({ packEdge with len := 65 } : State).len.toNat ≠ 64
      ∧ ∃ t, exec .pack { packEdge with len := 65 } = .next t ∧ t.fault = true ∧ t.err = 2 := by
  refine ⟨rfl, by decide, _, rfl, ?_, ?_⟩ <;> decide

theorem witness_SliceWritesTheTiles :
    sliceEdge.fault = false ∧ sliceEdge.width.toNat % 8 = 0 ∧ sliceEdge.height.toNat % 8 = 0 ∧ sliceEdge.pal.toNat ≤ 7
      ∧ sliceEdge.src.toNat + sliceEdge.width.toNat * sliceEdge.height.toNat = sliceEdge.cfg.pixN
      ∧ sliceEdge.dst.toNat + sliceEdge.width.toNat / 8 * (sliceEdge.height.toNat / 8) = sliceEdge.cfg.tileN
      ∧ (∀ y < sliceEdge.height.toNat, ∀ x < sliceEdge.width.toNat,
          InPalette sliceEdge sliceEdge.pal.toNat
            (readPix sliceEdge (sliceEdge.src.toNat + y * sliceEdge.width.toNat + x)))
      ∧ IsIndex sliceEdge sliceEdge.pal.toNat (readPix sliceEdge (sheetPixel sliceEdge 3 7 7)) 2 := by
  unfold InPalette IsIndex
  decide +kernel

/-- Each clause at the first value that its test refuses. -/
theorem witness_SliceFaultsInOrder :
    sliceEdge.fault = false ∧ ({ sliceEdge with width := 9 } : State).width.toNat % 8 ≠ 0
      ∧ ({ sliceEdge with height := 15 } : State).height.toNat % 8 ≠ 0
      ∧ 7 < ({ sliceEdge with pal := 8 } : State).pal.toNat
      ∧ sliceEdge.cfg.pixN
        < ({ sliceEdge with src := 769 } : State).src.toNat + sliceEdge.width.toNat * sliceEdge.height.toNat
      ∧ sliceEdge.cfg.tileN
        < ({ sliceEdge with dst := 253 } : State).dst.toNat + sliceEdge.width.toNat / 8 * (sliceEdge.height.toNat / 8) := by
  decide

/-- V-SLICE-5: the bad pixel 156 is pixel (1, 4) of cell 1. -/
theorem witness_SliceReportsFirstBadPixel :
    (sliceBadState.fault = false ∧ sliceBadState.width.toNat % 8 = 0 ∧ sliceBadState.height.toNat % 8 = 0
      ∧ sliceBadState.pal.toNat ≤ 7
      ∧ sliceBadState.src.toNat + sliceBadState.width.toNat * sliceBadState.height.toNat ≤ sliceBadState.cfg.pixN
      ∧ sliceBadState.dst.toNat + sliceBadState.width.toNat / 8 * (sliceBadState.height.toNat / 8)
        ≤ sliceBadState.cfg.tileN
      ∧ 1 < sliceBadState.width.toNat / 8 * (sliceBadState.height.toNat / 8)
      ∧ ¬InPalette sliceBadState sliceBadState.pal.toNat (readPix sliceBadState (sheetPixel sliceBadState 1 1 4)))
      ∧ ∀ k, ∀ r < 8, ∀ c < 8, 64 * k + 8 * r + c < 64 * 1 + 8 * 1 + 4 →
          InPalette sliceBadState sliceBadState.pal.toNat (readPix sliceBadState (sheetPixel sliceBadState k r c)) := by
  unfold InPalette
  refine ⟨by decide +kernel, fun k r hr c hc hlt => ?_⟩
  have key : ∀ k < 2, ∀ r < 8, ∀ c < 8, 64 * k + 8 * r + c < 64 * 1 + 8 * 1 + 4 →
      ∃ i < 4, readPal sliceBadState sliceBadState.pal.toNat i
        = readPix sliceBadState (sheetPixel sliceBadState k r c) := by decide +kernel
  exact key k (by omega) r hr c hc hlt

theorem witness_EmptySheetWritesNothing :
    let s := { sliceEdge with width := 0, src := 1024, dst := 256, pal := 7 }
    s.fault = false ∧ s.width.toNat % 8 = 0 ∧ s.height.toNat % 8 = 0 ∧ s.pal.toNat ≤ 7
      ∧ (s.width.toNat = 0 ∨ s.height.toNat = 0) ∧ s.src.toNat ≤ s.cfg.pixN ∧ s.dst.toNat ≤ s.cfg.tileN := by decide

theorem witness_SliceOfOneCellIsPack :
    packEdge.fault = false ∧ packEdge.len.toNat = 64 ∧ packEdge.width.toNat = 8 ∧ packEdge.height.toNat = 8
      ∧ ∃ t, exec .pack packEdge = .next t ∧ t.fault = false := by
  refine ⟨rfl, by decide, by decide, by decide, _, rfl, ?_⟩
  decide +kernel

theorem witness_SheetDimensionsFaultExactly :
    ({ sliceEdge with width := 12, height := 9 } : State).width.toNat % 8 ≠ 0
      ∧ sliceEdge.width.toNat % 8 = 0 ∧ ({ sliceEdge with height := 9 } : State).height.toNat % 8 ≠ 0
      ∧ ∃ t, exec .slice { sliceEdge with height := 9 } = .next t ∧ t.fault = true ∧ t.err = 3 := by
  refine ⟨by decide, by decide, by decide, _, rfl, ?_, ?_⟩ <;> decide

/-- The last cell of quadrant 1 is the last cell of the map; the first of quadrant 2 is the first. -/
theorem witness_QuadrantsTileTheMap :
    4 < qh smallCfg.toCfg ∧ 4 < qw smallCfg.toCfg ∧ mapCell smallCfg.toCfg 1 4 4 = 99 ∧ mapCell smallCfg.toCfg 2 0 0 = 0
      ∧ 99 < smallCfg.bgW * smallCfg.bgH ∧ refCfg.bgW = 32 ∧ refCfg.bgH = 30 := by decide

/-- A cell of each class: (0, 4), (4, 0), (3, 0), (1, 4) and (3, 3). -/
theorem witness_ClassAndMaskFollowRules :
    0 < qh smallCfg.toCfg ∧ 4 < qw smallCfg.toCfg ∧ 4 + 1 = qh smallCfg.toCfg ∧ 3 + 1 ≠ qh smallCfg.toCfg
      ∧ 4 + 1 = qw smallCfg.toCfg ∧ 3 + 1 ≠ qw smallCfg.toCfg := by decide

theorem witness_SettledEntriesAreFixed : 15 < 16 ∧ lutTag .interior 15 = .s ∧ lutTag .leftCol 1 = .s := by decide

theorem witness_UnreachableEntriesAreNotRead :
    4 < qh levelState.cfg.toCfg ∧ 0 < qw levelState.cfg.toCfg ∧ lutTag .leftCol 4 = .u := by decide

theorem level_good : ∀ q, SlotGood levelState q := by
  intro q
  fin_cases q <;> exact ⟨by decide, by decide⟩

theorem witness_AutotileBuildsTheMap :
    levelState.fault = false ∧ (∀ q, SlotGood levelState q) ∧ 4 < qh levelState.cfg.toCfg ∧ 4 < qw levelState.cfg.toCfg :=
  ⟨rfl, level_good, by decide, by decide⟩

theorem witness_AutotileStaysInTheMap :
    ∃ t, exec .autotile levelState = .next t ∧ t.fault = false ∧ levelState.cfg.bgW * levelState.cfg.bgH ≤ 100 :=
  ⟨_, rfl, by decide +kernel, by decide⟩

/-- Slot 2 with a wrong identifier; slot 2 with a wrong length. -/
theorem witness_AutotileReportsFirstBadSlot :
    (∀ p, p < (2 : Fin 4) → SlotGood levelState p)
      ∧ slotGet (slotSet levelState.chunkMagic 2 0x4C4C5F51) 2 ≠ slotWord 2
      ∧ slotGet levelState.chunkMagic 2 = slotWord 2
      ∧ (slotGet (slotSet levelState.chunkLen 2 24) 2).toNat ≠ qw levelState.cfg.toCfg * qh levelState.cfg.toCfg :=
  ⟨fun p _ => level_good p, by decide, by decide, by decide⟩

/-- The level of V-AUTO-1 with one character of quadrant 3 changed. -/
def otherLevel : State := { levelState with chunk := memInsert levelChunks 0xC00 0x30 }

theorem other_good : ∀ q, SlotGood otherLevel q := by
  intro q
  fin_cases q <;> exact ⟨by decide, by decide⟩

/-- Two levels that differ in quadrant 3 only, seen from quadrant 2. -/
theorem witness_QuadrantsDoNotSeeEachOther :
    otherLevel.cfg = levelState.cfg ∧ (∀ p, SlotGood levelState p) ∧ (∀ p, SlotGood otherLevel p)
      ∧ (∀ i < qw levelState.cfg.toCfg * qh levelState.cfg.toCfg, readChunk otherLevel 2 i = readChunk levelState 2 i)
      ∧ readChunk otherLevel 3 0 ≠ readChunk levelState 3 0
      ∧ (∃ t, exec .autotile levelState = .next t) ∧ ∃ t, exec .autotile otherLevel = .next t :=
  ⟨rfl, level_good, other_good, by decide +kernel, by decide +kernel, ⟨_, exec_eq _ _⟩, ⟨_, exec_eq _ _⟩⟩

/-- Both forms: AUTOTILE at once, and ILLUM in between. -/
theorem witness_AutotileIsIdempotent :
    ∃ t u, levelState.fault = false ∧ exec .autotile levelState = .next t ∧ t.fault = false
      ∧ exec .illum t = .next u ∧ u.fault = false := by
  refine ⟨_, _, rfl, rfl, ?_, rfl, ?_⟩ <;> decide +kernel

/-- The isolated cells (0, 2), (2, 0), (2, 4) and (4, 2) of quadrant 0 of V-AUTO-1. -/
theorem witness_IsolatedCellIsPositional :
    levelState.cfg.lut = defaultLut ∧ 4 < qh levelState.cfg.toCfg ∧ 4 < qw levelState.cfg.toCfg
      ∧ ∀ x ∈ [(0, 2), (2, 0), (2, 4), (4, 2), (2, 2)],
          occ levelState 0 (x.1 - 1) x.2 = false ∧ occ levelState 0 (x.1 + 1) x.2 = false
            ∧ occ levelState 0 x.1 (x.2 - 1) = false ∧ occ levelState 0 x.1 (x.2 + 1) = false := by
  refine ⟨rfl, by decide, by decide, ?_⟩
  decide +kernel

/-- Quadrant 3 with its occupied cell (1, 0), and QUAD at 4. -/
theorem witness_IllumLightsTheQuadrant :
    levelState.fault = false ∧ ({ levelState with quad := 3 } : State).quad.toNat = (3 : Fin 4).val
      ∧ 1 < qh levelState.cfg.toCfg ∧ 0 < qw levelState.cfg.toCfg
      ∧ readChunk levelState 3 (1 * qw levelState.cfg.toCfg + 0) = 0x31
      ∧ 3 < ({ levelState with quad := 4 } : State).quad.toNat := by decide +kernel

theorem witness_IllumIsIdempotent : ∃ t, exec .illum { mapState with quad := 3 } = .next t ∧ t.fault = false :=
  ⟨_, rfl, by decide +kernel⟩

/-- The invariant holds of a state that no reset leaves: one with palettes, pixels, and a fault record. -/
theorem witness_StepKeepsInvariant :
    Inv (facing (.write 6 3) { packState with fault := true, err := 3, errInfo := 1, errCmd := 3 })
      ∧ ∃ t, step (facing (.write 6 3) { packState with fault := true, err := 3, errInfo := 1, errCmd := 3 }) = .next t := by
  refine ⟨?_, _, rfl⟩
  constructor <;> unfold packState withPalette elements facing <;> decide +kernel

theorem witness_FaultedStateIsFrozen :
    let s := { faultedState with host := [Transaction.write 0x06 0, Transaction.write 0x06 7] }
    s.fault = true ∧ s.host = [(0 : Word), 7].map (fun v => .write 0x06 v) ∧ [(0 : Word), 7] ≠ [] := by decide

theorem witness_WrittenCellsHaveZeroTop :
    (∃ t, t.fault = false ∧ exec .autotile levelState = .next t)
      ∧ ∃ t, t.fault = false ∧ exec .illum { mapState with quad := 3 } = .next t
        ∧ ({ mapState with quad := 3 } : State).quad.toNat = (3 : Fin 4).val
        ∧ readChunk mapState 3 (1 * qw mapState.cfg.toCfg + 0) = 0x31 := by
  refine ⟨⟨_, ?_, rfl⟩, _, ?_, rfl, ?_, ?_⟩ <;> decide +kernel

theorem witness_TileChangesOnlyByPackSliceReset :
    ∃ t, step (facing (.write 6 2) packState) = .next t ∧ readTile t 5 0 ≠ readTile (facing (.write 6 2) packState) 5 0 :=
  ⟨_, rfl, by decide +kernel⟩

theorem witness_MapChangesOnlyByAutotileIllumReset :
    ∃ t, step (facing (.write 6 5) { mapState with quad := 3 }) = .next t
      ∧ readBg t 5 ≠ readBg (facing (.write 6 5) { mapState with quad := 3 }) 5 :=
  ⟨_, rfl, by decide +kernel⟩

theorem witness_ResultChangesOnlyByCommands :
    ∃ t, step (facing (.write 6 1) (findState 0x000000FF)) = .next t ∧ t.result ≠ (findState 0x000000FF).result :=
  ⟨_, rfl, by decide⟩

/-- A map that is decoded, and a step that keeps it: the read of a register. -/
theorem witness_DecodedMapPersists :
    (∃ t, exec .autotile levelState = .next t ∧ t.fault = false)
      ∧ MapDecoded mapState ∧ (∃ t, step (facing (.read 7) mapState) = .next t)
      ∧ ¬IsReset (.read 7) ∧ ∀ a v, Transaction.read 7 ≠ .write a v := by
  refine ⟨⟨_, rfl, by decide +kernel⟩, ?_, ⟨_, rfl⟩, ?_, fun _ _ h => by cases h⟩
  · intro q t c ht hc
    have key : ∀ q : Fin 4, ∀ t : Nat, t < 5 → ∀ c : Nat, c < 5 →
        if occ mapState q t c then
          readBg mapState (cellIndex mapState.cfg.toCfg q t c)
              = bgCell mapState.cfg.unlitPal (variantTileOf mapState.cfg.variantTile (cellVariant mapState q t c))
            ∨ readBg mapState (cellIndex mapState.cfg.toCfg q t c)
              = bgCell mapState.cfg.litPal (variantTileOf mapState.cfg.variantTile (cellVariant mapState q t c))
        else readBg mapState (cellIndex mapState.cfg.toCfg q t c) = bgCell mapState.cfg.groundPal mapState.cfg.groundTile := by
      decide +kernel
    exact key q t ht c hc
  · rintro (h | ⟨v, h, -⟩) <;> cases h

end Sys2Proof.Machine.Tests
end

section
/-! SUPPORT. The layer for the statements about the state (10_state.md): the address map and the decoder read backwards,
what a command can end in, the cells of the map, the invariant operation by operation, and what one step can do to the
outputs of the machine. -/

namespace Sys2Proof.Machine

/-! ### The address map, read backwards (R62) -/

/-- The element an address names exists, and the address is its own (R62). -/
theorem elementAt_sound {c : LegalCfg} {a : Nat} {e : Element} (h : elementAt c.toCfg a = some e) :
    elementExists c.toCfg e = true ∧ elementAddr e = a := by
  have hq := (cfg_facts c).quadrant
  unfold elementAt at h
  split at h
  · obtain ⟨r, hr, rfl⟩ := Option.map_eq_some_iff.1 h
    exact ⟨rfl, regAddr_of_regAt hr⟩
  · repeat' split at h
    all_goals cases h
    all_goals simp only [elementExists, elementAddr, palIndex, chunkIndex, tileIndex, Fin.ofNat, Bool.and_eq_true,
      decide_eq_true_eq]
    all_goals omega

theorem elementAt_regAddr (c : Cfg) (r : Reg) : elementAt c (regAddr r) = some (.reg r) := by
  have := regAddr_lt r
  unfold elementAt
  rw [if_pos (by omega), regAt_regAddr]
  rfl

/-- The only address of a register is its own (R21). -/
theorem address_of_elementAt_reg {c : LegalCfg} {a : Word} {r : Reg}
    (h : elementAt c.toCfg a.toNat = some (.reg r)) : a = BitVec.ofNat 32 (regAddr r) := by
  obtain ⟨-, ha⟩ := elementAt_sound h
  rw [show regAddr r = a.toNat from ha, BitVec.ofNat_toNat, BitVec.setWidth_eq]

/-! ### The codec, read backwards (R91, R93, R95) -/

theorem opcodeCommand_eq_some {n : Nat} {i : Instr} (h : opcodeCommand n = some i) : opcode i = n := by
  unfold opcodeCommand at h
  split at h <;> cases h <;> rfl

theorem opcodeCommand_eq_none {n : Nat} (h : opcodeCommand n = none) : 5 < n := by
  by_contra hn
  have : n = 0 ∨ n = 1 ∨ n = 2 ∨ n = 3 ∨ n = 4 ∨ n = 5 := by omega
  rcases this with rfl | rfl | rfl | rfl | rfl | rfl <;> cases h

theorem encode_toNat (i : Instr) : (encode i).toNat = opcode i := by
  cases i <;> rfl

/-- A word that decodes to a command is the command's word (R91). -/
theorem encode_of_decode {v : Word} {i : Instr} (h : decode v = .command i) : encode i = v := by
  unfold decode at h
  split at h
  · cases h
  · rename_i hhigh
    split at h
    · rename_i j hj
      cases h
      have hop := opcodeCommand_eq_some hj
      apply BitVec.eq_of_toNat_eq
      rw [encode_toNat]
      simp only [bitField] at hhigh hop
      omega
    · cases h

/-- An illegal word is above the last opcode, and is reported as it stands (R93, R198). -/
theorem decode_illegal {v w : Word} (h : decode v = .illegalCommand w) : w = v ∧ 5 < v.toNat := by
  unfold decode at h
  split at h
  · rename_i hhigh
    cases h
    simp only [bitField] at hhigh
    exact ⟨rfl, by omega⟩
  · split at h
    · cases h
    · rename_i hnone
      cases h
      have := opcodeCommand_eq_none hnone
      simp only [bitField] at this
      exact ⟨rfl, by omega⟩

/-! ### The step, by the form of its transaction -/

theorem step_cons {s : State} {x : Transaction} {rest : List Transaction} (h : s.host = x :: rest) :
    step s = transact x { s with host := rest } := by
  unfold step
  rw [h]

/-- A write of address 0x06 is a CMD write (R21, R28). -/
theorem transact_cmd (s : State) (v : Word) : transact (.write 0x06 v) s = commandWrite v s := by
  have : namesCommand s 0x06 = true := by
    unfold namesCommand
    exact beq_iff_eq.2 (elementAt_regAddr s.cfg.toCfg .cmd)
  simp only [transact, this, if_true]

/-- A write of address 0x01 is a CTRL write (R21, R23). -/
theorem transact_ctrl (s : State) (v : Word) : transact (.write 0x01 v) s = .next (writeControl v s) := by
  have hat : elementAt s.cfg.toCfg (0x01 : Word).toNat = some (.reg .ctrl) := elementAt_regAddr s.cfg.toCfg .ctrl
  simp only [transact, namesCommand, hostWrite, hat]
  rfl

theorem commandWrite_faulted {s : State} (v : Word) (h : s.fault = true) :
    commandWrite v s = .next (respond (.write .error) s) := by
  unfold commandWrite
  split
  · rw [exec_eq, runCommand_faulted _ _ h]
  · rw [illegalCommand, runCommand_faulted _ _ h]

/-- In the FAULTED state a CMD write is refused, whatever its word (R203). -/
theorem step_faulted_cmd {s : State} {v : Word} {rest : List Transaction} (hf : s.fault = true)
    (hx : s.host = .write 0x06 v :: rest) : step s = .next (answeredError { s with host := rest }) := by
  rw [step_cons hx, transact_cmd]
  exact commandWrite_faulted v hf

/-- How a command's frame can end: refused, completed or faulted (R98, R200, R203). -/
theorem runCommand_cases (w : Word) (body : State → Ending) (s : State) :
    (s.fault = true ∧ runCommand w body s = respond (.write .error) s)
      ∨ (s.fault = false ∧ ∃ t, body s = .done t ∧ runCommand w body s = respond (.write .ok) t)
      ∨ (s.fault = false ∧ ∃ t f, body s = .raised t f ∧ runCommand w body s = faultEntry w f t) := by
  cases hf : s.fault with
  | true => exact .inl ⟨rfl, runCommand_faulted w body hf⟩
  | false =>
    cases hb : body s with
    | done t => exact .inr (.inl ⟨rfl, t, rfl, runCommand_done hf hb⟩)
    | raised t f => exact .inr (.inr ⟨rfl, t, f, rfl, runCommand_raised hf hb⟩)

/-- A CMD write of an illegal word is refused, or records the word as the fault's info and as its command word (R198). -/
theorem illegalCommand_cases (v : Word) (s : State) :
    (s.fault = true ∧ illegalCommand v s = respond (.write .error) s)
      ∨ (s.fault = false ∧ illegalCommand v s = faultEntry v ⟨.illegalCommand, v.toNat⟩ s) := by
  cases hf : s.fault with
  | true => exact .inl ⟨rfl, runCommand_faulted v _ hf⟩
  | false => exact .inr ⟨rfl, runCommand_raised hf rfl⟩

/-! ### Places in a grid -/

/-- Row `r`, column `c` of a grid `w` wide and `h` high is a place of the grid. -/
theorem grid_lt {r h c w : Nat} (hr : r < h) (hc : c < w) : r * w + c < h * w :=
  calc r * w + c < r * w + w := by omega
    _ = (r + 1) * w := by ring
    _ ≤ h * w := Nat.mul_le_mul_right w hr

/-- A place of a grid has one row and one column. -/
theorem grid_inj {r r' c c' w : Nat} (hc : c < w) (hc' : c' < w) (h : r * w + c = r' * w + c') : r = r' ∧ c = c' := by
  have row : ∀ {r c}, c < w → (r * w + c) / w = r := fun {r c} hc => by
    rw [Nat.mul_comm, Nat.mul_add_div (by omega), Nat.div_eq_of_lt hc, Nat.add_zero]
  have hr : r = r' := by rw [← row (r := r) hc, h, row hc']
  subst hr
  exact ⟨rfl, by omega⟩

/-! ### What a command that completes has written, and what a fault can be (R31, R191) -/

/-- The pixels of the cells of a sheet lie in the sheet (R131). -/
theorem sheetAddr_lt {s : State} {k r c : Nat} (hw : s.width.toNat % 8 = 0) (hh : s.height.toNat % 8 = 0)
    (hk : k < sheetCells s) (hr : r < 8) (hc : c < 8) :
    sheetAddr s k r c < s.src.toNat + s.width.toNat * s.height.toNat := by
  have hpos : 0 < s.width.toNat / 8 := Nat.pos_of_mul_pos_right (Nat.zero_lt_of_lt hk)
  have hrow : k / (s.width.toNat / 8) < s.height.toNat / 8 := Nat.div_lt_of_lt_mul hk
  have hcol : k % (s.width.toNat / 8) < s.width.toNat / 8 := Nat.mod_lt k hpos
  simp only [sheetAddr]
  generalize k / (s.width.toNat / 8) = y at hrow ⊢
  generalize k % (s.width.toNat / 8) = x at hcol ⊢
  have := grid_lt (r := 8 * (s.height.toNat / 8 - 1 - y) + r) (h := s.height.toNat) (c := 8 * x + c)
    (w := s.width.toNat) (by omega) (by omega)
  rw [Nat.mul_comm s.height.toNat] at this
  omega

theorem packCells_length {s : State} {p : Nat} {ks : List Nat} {tiles : List (List Byte)}
    (h : packCells s p ks = .ok tiles) : tiles.length = ks.length := by
  induction ks generalizing tiles with
  | nil => cases h; rfl
  | cons k ks ih =>
    simp only [packCells] at h
    repeat' split at h
    all_goals cases h
    rename_i rest hrest
    simp [ih hrest]

/-- The slicer's fault is that of a pixel of one of its cells (R131, R192). -/
theorem packCells_error {s : State} {p : Nat} {ks : List Nat} {f : Raise} (h : packCells s p ks = .error f) :
    ∃ k ∈ ks, ∃ r < 8, ∃ c < 8, f = ⟨.colorNotInPalette, sheetAddr s k r c⟩ := by
  induction ks with
  | nil => cases h
  | cons k ks ih =>
    rcases packCell_cases s p (sheetAddr s k) with hk | ⟨r, hr, c, hc, -, hk⟩
    · simp only [packCells, hk] at h
      split at h
      · rename_i g hg
        cases h
        obtain ⟨k', hk', hf⟩ := ih hg
        exact ⟨k', List.mem_cons_of_mem k hk', hf⟩
      · cases h
    · simp only [packCells, hk] at h
      cases h
      exact ⟨k, List.mem_cons_self, r, hr, c, hc, rfl⟩

/-- AUTOTILE's fault is a wrong identifier or a wrong length of a slot (R152). -/
theorem checkSlots_some {s : State} {qs : List (Fin 4)} {f : Raise} (h : checkSlots s qs = some f) :
    ∃ q : Fin 4, f = ⟨.chunkMagicMismatch, q.val⟩ ∨ f = ⟨.chunkSizeMismatch, q.val⟩ := by
  induction qs with
  | nil => cases h
  | cons q qs ih =>
    simp only [checkSlots] at h
    split at h
    · cases h; exact ⟨q, .inl rfl⟩
    · split at h
      · cases h; exact ⟨q, .inr rfl⟩
      · exact ih h

/-- What a command that completes leaves of the state `s`, command by command. -/
inductive DoneCase (s : State) : Instr → State → Prop
  | nop : DoneCase s .nop s
  | find (n : Nat) : DoneCase s .find (commitResult n s)
  | pack (bytes : List Byte) (hd : s.dst.toNat < s.cfg.tileN) :
      DoneCase s .pack (commitResult 1 (commitTiles (tileWrites s.dst.toNat bytes) s))
  | slice (tiles : List (List Byte)) (hd : s.dst.toNat + tiles.length ≤ s.cfg.tileN) :
      DoneCase s .slice (commitResult tiles.length (commitTiles (sheetWrites s.dst.toNat tiles) s))
  | autotile (hs : checkSlots s slots = none) :
      DoneCase s .autotile
        (commitResult (slots.map (occupiedCount s)).sum (commitBg (memInsertAll s.bg (autotileWrites s)) s))
  | illum (q : Fin 4) (hq : s.quad.toNat = q.val) :
      DoneCase s .illum
        (commitResult (litCells s q).length (commitBg ((litCells s q).foldl (lightCell s) s.bg) s))

theorem done_cases {i : Instr} {s t : State} (h : bodyOf i s = .done t) : DoneCase s i t := by
  cases i with
  | nop => cases h; exact .nop
  | find =>
    simp only [bodyOf, findBody] at h
    repeat' split at h
    all_goals cases h
    exact .find _
  | pack =>
    simp only [bodyOf, packBody] at h
    repeat' split at h
    all_goals cases h
    exact .pack _ (by omega)
  | slice =>
    simp only [bodyOf, sliceBody] at h
    repeat' split at h
    all_goals cases h
    rename_i tiles htiles
    have hlen : tiles.length = sheetCells s := by rw [packCells_length htiles, List.length_range]
    rw [← hlen]
    exact .slice tiles (by omega)
  | autotile =>
    simp only [bodyOf, autotileBody] at h
    split at h
    · cases h
    · rename_i hs
      cases h
      exact .autotile hs
  | illum =>
    simp only [bodyOf, illumBody] at h
    split at h
    · cases h
    · cases h
      exact .illum _ (Nat.mod_eq_of_lt (by omega)).symm

/-- The faults a command can raise in the state `s`, command by command (the table of R191). -/
inductive RaisedCase (s : State) : Instr → Raise → Prop
  | findColor : RaisedCase s .find ⟨.colorNotInPalette, s.color.toNat⟩
  | findPalette : RaisedCase s .find (operandRange 0)
  | packPixel (a : Nat) (ha : a < s.cfg.pixN) : RaisedCase s .pack ⟨.colorNotInPalette, a⟩
  | packSize (hl : s.len.toNat ≠ 64) : RaisedCase s .pack ⟨.invalidTileSize, s.len.toNat⟩
  | packRange (n : Nat) (hn : n ≤ 2) : RaisedCase s .pack (operandRange n)
  | slicePixel (a : Nat) (ha : a < s.cfg.pixN) : RaisedCase s .slice ⟨.colorNotInPalette, a⟩
  | sliceShape (n : Nat) (hn : n ≤ 1) : RaisedCase s .slice ⟨.invalidSpritesheetDimensions, n⟩
  | sliceRange (n : Nat) (hn : n ≤ 2) : RaisedCase s .slice (operandRange n)
  | autotileMagic (q : Fin 4) : RaisedCase s .autotile ⟨.chunkMagicMismatch, q.val⟩
  | autotileSize (q : Fin 4) : RaisedCase s .autotile ⟨.chunkSizeMismatch, q.val⟩
  | illumQuad : RaisedCase s .illum (operandRange 3)

theorem raised_cases {i : Instr} {s t : State} {f : Raise} (h : bodyOf i s = .raised t f) : RaisedCase s i f := by
  cases i with
  | nop => cases h
  | find =>
    simp only [bodyOf, findBody] at h
    split at h
    · cases h; exact .findPalette
    · split at h <;> cases h
      exact .findColor
  | pack =>
    simp only [bodyOf, packBody] at h
    split at h
    · cases h; exact .packSize ‹_›
    split at h
    · cases h; exact .packRange 0 (by omega)
    split at h
    · cases h; exact .packRange 1 (by omega)
    split at h
    · cases h; exact .packRange 2 (by omega)
    rcases packCell_cases s s.pal.toNat (fun r c => s.src.toNat + r * 8 + c) with hp | ⟨r, hr, c, hc, -, hp⟩
    · rw [hp] at h; cases h
    · rw [hp] at h; cases h
      exact .packPixel _ (by omega)
  | slice =>
    simp only [bodyOf, sliceBody] at h
    split at h
    · cases h; exact .sliceShape 0 (by omega)
    split at h
    · cases h; exact .sliceShape 1 (by omega)
    split at h
    · cases h; exact .sliceRange 0 (by omega)
    split at h
    · cases h; exact .sliceRange 1 (by omega)
    split at h
    · cases h; exact .sliceRange 2 (by omega)
    split at h
    · rename_i hw hh _ _ _ _ g hg
      cases h
      obtain ⟨k, hk, r, hr, c, hc, rfl⟩ := packCells_error hg
      have := sheetAddr_lt (not_not.1 hw) (not_not.1 hh) (List.mem_range.1 hk) hr hc
      exact .slicePixel _ (by omega)
    · cases h
  | autotile =>
    simp only [bodyOf, autotileBody] at h
    split at h
    · rename_i g hg
      cases h
      obtain ⟨q, rfl | rfl⟩ := checkSlots_some hg
      · exact .autotileMagic q
      · exact .autotileSize q
    · cases h
  | illum =>
    simp only [bodyOf, illumBody] at h
    split at h <;> cases h
    exact .illumQuad

/-! ### The cells of the quadrants (R41) -/

theorem cellIndex_eq_mapCell (c : Cfg) (q : Fin 4) (t col : Nat) : cellIndex c q t col = mapCell c q t col := by
  have hq : q.val / 2 % 2 = q.val / 2 := by omega
  simp only [cellIndex, quadStart, quadRow, quadCol, mapCell, hq]
  ring

/-- A cell of a quadrant has its row and its column in the map. -/
theorem mapCell_place (c : LegalCfg) {q : Fin 4} {t col : Nat} (ht : t < qh c.toCfg) (hc : col < qw c.toCfg) :
    (1 - q.val / 2) * qh c.toCfg + t < c.bgH ∧ q.val % 2 * qw c.toCfg + col < c.bgW := by
  obtain ⟨hw, hh, -, -⟩ := cfg_halves c
  rw [hw, hh]
  fin_cases q <;> simp <;> omega

theorem mapCell_lt (c : LegalCfg) {q : Fin 4} {t col : Nat} (ht : t < qh c.toCfg) (hc : col < qw c.toCfg) :
    mapCell c.toCfg q t col < c.bgW * c.bgH := by
  obtain ⟨hrow, hcol⟩ := mapCell_place c (q := q) ht hc
  rw [Nat.mul_comm]
  exact grid_lt hrow hcol

theorem mapCell_inj (c : LegalCfg) {q q' : Fin 4} {t t' col col' : Nat} (ht : t < qh c.toCfg) (hc : col < qw c.toCfg)
    (ht' : t' < qh c.toCfg) (hc' : col' < qw c.toCfg)
    (h : mapCell c.toCfg q t col = mapCell c.toCfg q' t' col') : q = q' ∧ t = t' ∧ col = col' := by
  obtain ⟨hr, hcol⟩ := grid_inj (mapCell_place c (q := q) ht hc).2 (mapCell_place c (q := q') ht' hc').2 h
  have row : q.val / 2 = q'.val / 2 ∧ t = t' := by
    have := grid_inj ht ht' hr
    omega
  have col : q.val % 2 = q'.val % 2 ∧ col = col' := grid_inj hc hc' hcol
  exact ⟨Fin.ext (by omega), row.2, col.2⟩

theorem cellIndex_lt (c : LegalCfg) {q : Fin 4} {t col : Nat} (ht : t < qh c.toCfg) (hc : col < qw c.toCfg) :
    cellIndex c.toCfg q t col < c.bgW * c.bgH := by
  rw [cellIndex_eq_mapCell]
  exact mapCell_lt c ht hc

theorem cellIndex_inj (c : LegalCfg) {q q' : Fin 4} {t t' col col' : Nat} (ht : t < qh c.toCfg) (hc : col < qw c.toCfg)
    (ht' : t' < qh c.toCfg) (hc' : col' < qw c.toCfg)
    (h : cellIndex c.toCfg q t col = cellIndex c.toCfg q' t' col') : q = q' ∧ t = t' ∧ col = col' := by
  rw [cellIndex_eq_mapCell, cellIndex_eq_mapCell] at h
  exact mapCell_inj c ht hc ht' hc' h

/-- A line of two halves of `w` places: each place is in one of the halves. -/
theorem exists_half {n w : Nat} (h : n < 2 * w) : ∃ i ≤ 1, ∃ t < w, i * w + t = n := by
  by_cases hn : n < w
  · exact ⟨0, by omega, n, hn, by omega⟩
  · exact ⟨1, by omega, n - w, by omega, by omega⟩

/-- Every element of BG is a cell of a quadrant. -/
theorem exists_mapCell (c : LegalCfg) {a : Nat} (ha : a < c.bgW * c.bgH) :
    ∃ q t col, t < qh c.toCfg ∧ col < qw c.toCfg ∧ mapCell c.toCfg q t col = a := by
  obtain ⟨hw, hh, hw1, -⟩ := cfg_halves c
  obtain ⟨i, hi, t, ht, hrow⟩ := exists_half (n := a / c.bgW) (w := qh c.toCfg) (hh ▸ Nat.div_lt_of_lt_mul ha)
  obtain ⟨j, hj, col, hcol, hplace⟩ := exists_half (n := a % c.bgW) (w := qw c.toCfg) (hw ▸ Nat.mod_lt a (by omega))
  refine ⟨⟨2 * (1 - i) + j, by omega⟩, t, col, ht, hcol, ?_⟩
  have hqr : 1 - (2 * (1 - i) + j) / 2 = i := by omega
  have hqc : (2 * (1 - i) + j) % 2 = j := by omega
  simp only [mapCell, hqr, hqc, hrow, hplace, Nat.div_add_mod']

/-! ### The invariant, operation by operation (R46) -/

/-- The numbers `tileWrites` and `sheetWrites` name are those of tiles that exist. -/
theorem tileWrites_within {d n : Nat} (hd : d < n) (bytes : List Byte) :
    Memory.within (tileWrites d bytes) fun i => i < 16 * n := by
  intro e he
  obtain ⟨b, hb, rfl⟩ := mem_tileWrites.1 he
  simp only [tileIndex]
  omega

theorem sheetWrites_within {d n : Nat} (tiles : List (List Byte)) (hd : d + tiles.length ≤ n) :
    Memory.within (sheetWrites d tiles) fun i => i < 16 * n := by
  intro e he
  obtain ⟨-, hlt⟩ := sheetWrites_key_bounds (List.mem_map_of_mem (f := Prod.fst) he)
  omega

/-- AUTOTILE writes cells of the map. -/
theorem autotileWrites_within (s : State) :
    Memory.within (autotileWrites s) fun i => i < s.cfg.bgW * s.cfg.bgH := by
  intro e he
  obtain ⟨q, t, c, ht, hc, rfl⟩ := mem_autotileWrites.1 he
  exact cellIndex_lt s.cfg ht hc

/-- The cells ILLUM writes: the occupied ones of the quadrant (R170). -/
theorem mem_litCells {s : State} {q : Fin 4} {a : Nat} :
    a ∈ litCells s q ↔ ∃ t c, t < qh s.cfg.toCfg ∧ c < qw s.cfg.toCfg ∧ occ s q t c = true
      ∧ cellIndex s.cfg.toCfg q t c = a := by
  simp only [litCells, List.mem_map, List.mem_filter, mem_quadCells]
  constructor
  · rintro ⟨⟨t, c⟩, ⟨⟨ht, hc⟩, ho⟩, rfl⟩
    exact ⟨t, c, ht, hc, ho, rfl⟩
  · rintro ⟨t, c, ht, hc, ho, rfl⟩
    exact ⟨(t, c), ⟨⟨ht, hc⟩, ho⟩, rfl⟩

theorem within_memInsert {w : Nat} {m : Memory w} {p : Nat → Prop} (h : m.within p) {a : Nat} (ha : p a)
    (v : BitVec w) : Memory.within (memInsert m a v) p := by
  intro e he
  rcases mem_of_mem_insert he with rfl | he
  · exact ha
  · exact h e he

theorem within_memInsertAll {w : Nat} {m ws : Memory w} {p : Nat → Prop} (h : m.within p)
    (hws : ws.within p) : Memory.within (memInsertAll m ws) p :=
  fun e he => (mem_of_mem_insertAll he).elim (hws e) (h e)

theorem within_tileInsertAll {m ws : Memory 8} {p : Nat → Prop} (h : m.within p)
    (hws : ws.within p) : Memory.within (tileInsertAll m ws) p :=
  fun e he => (mem_of_mem_tileInsertAll he).elim (hws e) (h e)

theorem within_light (s : State) {p : Nat → Prop} {cells : List Nat} (hc : ∀ a ∈ cells, p a) {m : Memory 16}
    (h : m.within p) : Memory.within (cells.foldl (lightCell s) m) p := by
  induction cells generalizing m with
  | nil => exact h
  | cons a cells ih =>
    exact ih (fun b hb => hc b (List.mem_cons_of_mem a hb)) (within_memInsert h (hc a List.mem_cons_self) _)

theorem litCells_within (s : State) (q : Fin 4) : ∀ a ∈ litCells s q, a < s.cfg.bgW * s.cfg.bgH := by
  intro a ha
  obtain ⟨t, c, ht, hc, -, rfl⟩ := mem_litCells.1 ha
  exact cellIndex_lt s.cfg ht hc

/-- With FAULT = 0 the record is legal exactly when it is zero, whatever the rest of the state is (R46 a). -/
theorem faultRecordLegal_clear {s : State} (hf : s.fault = false) :
    faultRecordLegal s = true ↔ s.err = 0 ∧ s.errInfo = 0 ∧ s.errCmd = 0 := by
  simp [faultRecordLegal, hf, and_assoc]

/-- The invariant does not look at the queue and the last response. -/
theorem inv_respond {s : State} (h : Inv s) (a : Answer) : Inv (respond a s) := { h with }

theorem inv_host {s : State} (h : Inv s) (q : List Transaction) : Inv { s with host := q } := { h with }

theorem inv_resetAction (s : State) : Inv (resetAction s) := by
  constructor <;> simp [Memory.wf, Memory.within, faultRecordLegal]

theorem inv_writeReg {s : State} (h : Inv s) (r : Reg) (v : Word) : Inv (writeReg s r v) := by
  cases r <;> exact { h with }

/-- A host write keeps the invariant where the element exists (R62). -/
theorem inv_writeElement {s : State} (h : Inv s) {e : Element} (he : elementExists s.cfg.toCfg e = true) (v : Word) :
    Inv (writeElement s e v) := by
  have hq := (cfg_facts s.cfg).quadrant
  cases e with
  | reg r => exact inv_writeReg h r v
  | bg i => exact h
  | tile t b => exact h
  | pal p i =>
    have hpi : palIndex p i < 32 := by
      simp only [elementExists, Bool.and_eq_true, decide_eq_true_eq] at he
      simp only [palIndex]
      omega
    exact { h with palWf := memInsert_wf h.palWf _ _, palWithin := within_memInsert h.palWithin hpi _ }
  | chunk q i =>
    have hqi : chunkIndex q i < 0x1000 ∧ chunkIndex q i % 0x400 < qw s.cfg.toCfg * qh s.cfg.toCfg := by
      simp only [elementExists, decide_eq_true_eq] at he
      simp only [chunkIndex]
      omega
    exact { h with chunkWf := memInsert_wf h.chunkWf _ _, chunkWithin := within_memInsert h.chunkWithin hqi _ }
  | pix i =>
    exact { h with
      pixWf := memInsert_wf h.pixWf _ _
      pixWithin := within_memInsert h.pixWithin (of_decide_eq_true he) _ }

theorem inv_writeControl {s : State} (h : Inv s) (v : Word) : Inv (writeControl v s) := by
  unfold writeControl
  split
  · exact inv_respond (inv_resetAction s) _
  · exact inv_respond h _

/-- Fault entry keeps the invariant of the memories; the new record is the caller's to check (R200). -/
theorem inv_faultEntry {s : State} (h : Inv s) {w : Word} {f : Raise} (r : Word)
    (hr : faultRecordLegal (faultEntry w f { s with result := r }) = true) :
    Inv (faultEntry w f { s with result := r }) := { h with record := hr }

theorem inv_commitResult {s : State} (h : Inv s) (hf : s.fault = false) (n : Nat) : Inv (commitResult n s) := by
  have hr : faultRecordLegal (commitResult n s) = true :=
    (faultRecordLegal_clear (s := commitResult n s) hf).2 ((faultRecordLegal_clear hf).1 h.record)
  exact { h with record := hr }

theorem inv_commitTiles {s : State} (h : Inv s) {ws : List (Nat × Byte)}
    (hws : Memory.within ws fun i => i < 16 * s.cfg.tileN) : Inv (commitTiles ws s) :=
  { h with
    tileWf := tileInsertAll_wf h.tileWf ws
    tileWithin := within_tileInsertAll h.tileWithin hws
    tileNonzero := tileInsertAll_nonzero h.tileNonzero ws }

theorem inv_commitBg {s : State} (h : Inv s) {m : Memory 16} (hwf : m.wf)
    (hm : m.within fun i => i < s.cfg.bgW * s.cfg.bgH) : Inv (commitBg m s) :=
  { h with bgWf := hwf, bgWithin := hm }

/-- A command that completes keeps the invariant. -/
theorem inv_done {i : Instr} {s t : State} (h : Inv s) (hf : s.fault = false) (hd : DoneCase s i t) : Inv t := by
  cases hd with
  | nop => exact h
  | find n => exact inv_commitResult h hf n
  | pack bytes hlt => exact inv_commitResult (inv_commitTiles h (tileWrites_within hlt bytes)) hf _
  | slice tiles hle => exact inv_commitResult (inv_commitTiles h (sheetWrites_within tiles hle)) hf _
  | autotile =>
    exact inv_commitResult (inv_commitBg h (memInsertAll_wf h.bgWf _)
      (within_memInsertAll h.bgWithin (autotileWrites_within s))) hf _
  | illum q =>
    exact inv_commitResult (inv_commitBg h (light_wf s _ h.bgWf)
      (within_light s (litCells_within s q) h.bgWithin)) hf _

/-- The info of a fault is recorded whole (R200). -/
theorem RaisedCase.info_lt {s : State} {i : Instr} {f : Raise} (hc : RaisedCase s i f) : f.info < 2 ^ 32 := by
  have hpix := (cfg_facts s.cfg).pix
  cases hc with
  | findColor => exact s.color.isLt
  | packSize => exact s.len.isLt
  | _ => simp only [operandRange]; omega

/-- The record of a fault a command can raise is one of the table of R191; for FIND's colour, with the sentinel in
RESULT (R111). -/
theorem record_of_raised {i : Instr} {s t : State} {f : Raise} (hc : RaisedCase s i f) (hcfg : t.cfg = s.cfg)
    (hres : i = .find ∧ f.code = .colorNotInPalette → t.result = 4) :
    faultRecordLegal (faultEntry (encode i) f t) = true := by
  have hinfo : (truncNat 32 f.info).toNat = f.info := Nat.mod_eq_of_lt hc.info_lt
  simp only [faultRecordLegal, faultEntry_fault, if_true, faultEntry_err, faultEntry_errInfo, faultEntry_errCmd,
    faultEntry_result, faultEntry_cfg, encode_toNat, hinfo, hcfg]
  cases hc with
  | findColor => simp [faultNumber, truncNat, opcode, hres]
  | packPixel a ha => simp [faultNumber, truncNat, opcode, ha]
  | slicePixel a ha => simp [faultNumber, truncNat, opcode, ha]
  | packSize hl => simpa [faultNumber, truncNat, opcode] using hl
  | sliceShape n hn => simp [faultNumber, truncNat, opcode, hn]
  | autotileMagic q => simp [faultNumber, truncNat, opcode, Nat.le_of_lt_succ q.isLt]
  | autotileSize q => simp [faultNumber, truncNat, opcode, Nat.le_of_lt_succ q.isLt]
  | findPalette => simp [faultNumber, truncNat, opcode, operandRange]
  | packRange n hn => simp [faultNumber, truncNat, opcode, operandRange, hn]
  | sliceRange n hn => simp [faultNumber, truncNat, opcode, operandRange, hn]
  | illumQuad => simp [faultNumber, truncNat, opcode, operandRange]

/-- Every command keeps the invariant, whether it is refused, completes or faults. -/
theorem inv_runCommand {s : State} (h : Inv s) (i : Instr) : Inv (runCommand (encode i) (bodyOf i) s) := by
  rcases runCommand_cases (encode i) (bodyOf i) s with ⟨-, he⟩ | ⟨hf, t, hb, he⟩ | ⟨-, t, f, hb, he⟩
  · rw [he]
    exact inv_respond h _
  · rw [he]
    exact inv_respond (inv_done h hf (done_cases hb)) _
  · rw [he, body_raised hb]
    exact inv_faultEntry h _ (record_of_raised (raised_cases hb) rfl fun hi => if_pos hi)

/-- A CMD write of an illegal word keeps the invariant: its record holds the word twice (R198). -/
theorem inv_illegalCommand {s : State} (h : Inv s) {v : Word} (hv : 5 < v.toNat) : Inv (illegalCommand v s) := by
  rcases illegalCommand_cases v s with ⟨-, he⟩ | ⟨-, he⟩
  · rw [he]
    exact inv_respond h _
  · rw [he]
    exact inv_faultEntry h s.result (by simp [faultRecordLegal, faultNumber, truncNat, hv])

theorem inv_transact {s t : State} {x : Transaction} (h : Inv s) (hc : TransactCase s x t) : Inv t := by
  cases hc with
  | read a => exact inv_respond h _
  | reset => exact inv_resetAction s
  | command a v i => exact inv_runCommand h i
  | illegal a v w ha hv =>
    obtain ⟨rfl, hlt⟩ := decode_illegal hv
    exact inv_illegalCommand h hlt
  | control a v => exact inv_writeControl h v
  | element a v e ha => exact inv_respond (inv_writeElement h (elementAt_sound ha).1 v) _
  | refused a v => exact inv_respond h _

/-! ### What one step does to what only the machine writes -/

/-- `t` has FAULT, RESULT, TILE, BG, the configuration and the draw counter of `s`, none of which the host can write. -/
structure SameOutputs (s t : State) : Prop where
  fault : t.fault = s.fault
  result : t.result = s.result
  tile : t.tile = s.tile
  bg : t.bg = s.bg
  cfg : t.cfg = s.cfg
  draw : t.draw = s.draw

/-- A host write of an element other than a character of CHUNK keeps CHUNK. -/
theorem writeElement_chunk (s : State) (e : Element) (v : Word) :
    (writeElement s e v).chunk = s.chunk ∨ ∃ q i, e = .chunk q i := by
  cases e with
  | chunk q i => exact .inr ⟨q, i, rfl⟩
  | reg r => cases r <;> exact .inl rfl
  | _ => exact .inl rfl

theorem writeElement_sameOutputs (s : State) (e : Element) (v : Word) : SameOutputs s (writeElement s e v) := by
  cases e with
  | reg r => cases r <;> exact ⟨rfl, rfl, rfl, rfl, rfl, rfl⟩
  | _ => exact ⟨rfl, rfl, rfl, rfl, rfl, rfl⟩

/-- The host's next transaction writes a character of CHUNK. -/
def HostWritesChunk (s : State) : Prop :=
  ∃ a v rest q i, s.host = .write a v :: rest ∧ elementAt s.cfg.toCfg a.toNat = some (.chunk q i)

/-- What a step can do to the outputs of the machine: nothing, a reset, or what a command writes that was not refused
(R46). CHUNK changes by the host's writes and by resets alone. -/
inductive StepEffect (s : State) : State → Prop
  | quiet {t : State} (h : SameOutputs s t) (hc : t.chunk = s.chunk ∨ HostWritesChunk s) : StepEffect s t
  | reset {t : State} {x : Transaction} {rest : List Transaction} (hx : s.host = x :: rest) (hr : IsReset x)
      (hf : t.fault = false) : StepEffect s t
  | completed {u : State} {i : Instr} {rest : List Transaction} (hx : s.host = .write 0x06 (encode i) :: rest)
      (hf : s.fault = false) (hd : DoneCase { s with host := rest } i u) : StepEffect s (respond (.write .ok) u)
  | faulted {v r : Word} {f : Raise} {rest : List Transaction} (hx : s.host = .write 0x06 v :: rest)
      (hf : s.fault = false) (hr : r = s.result ∨ v = encode .find ∧ r = 4) :
      StepEffect s (faultEntry v f { s with host := rest, result := r })

theorem isReset_of_ctrl {c : LegalCfg} {a v : Word} (ha : elementAt c.toCfg a.toNat = some (.reg .ctrl))
    (hv : bitAt v 0 = 1) : IsReset (.write a v) :=
  .inr ⟨v, by rw [address_of_elementAt_reg ha]; rfl, (bitAt_zero v).1 hv⟩

/-- Every step has one of the effects. -/
theorem step_effect {s t : State} (h : step s = .next t) : StepEffect s t := by
  rcases step_cases h with ⟨-, rfl⟩ | ⟨x, rest, hx, hc⟩
  · exact .quiet ⟨rfl, rfl, rfl, rfl, rfl, rfl⟩ (.inl rfl)
  cases hc with
  | read a => exact .quiet ⟨rfl, rfl, rfl, rfl, rfl, rfl⟩ (.inl rfl)
  | refused a v => exact .quiet ⟨rfl, rfl, rfl, rfl, rfl, rfl⟩ (.inl rfl)
  | reset => exact .reset hx (.inl rfl) rfl
  | control a v ha =>
    unfold writeControl
    split
    · exact .reset hx (isReset_of_ctrl ha ‹_›) rfl
    · exact .quiet ⟨rfl, rfl, rfl, rfl, rfl, rfl⟩ (.inl rfl)
  | element a v e ha =>
    obtain ⟨hf, hr, ht, hb, hc, hd⟩ := writeElement_sameOutputs { s with host := rest } e v
    refine .quiet ⟨hf, hr, ht, hb, hc, hd⟩ ?_
    rcases writeElement_chunk { s with host := rest } e v with hk | ⟨q, i, rfl⟩
    · exact .inl hk
    · exact .inr ⟨a, v, rest, q, i, hx, ha⟩
  | command a v i ha hv =>
    rw [address_of_elementAt_reg ha, ← encode_of_decode hv] at hx
    rcases runCommand_cases (encode i) (bodyOf i) { s with host := rest } with
      ⟨-, he⟩ | ⟨hf, u, hb, he⟩ | ⟨hf, u, f, hb, he⟩
    · rw [he]
      exact .quiet ⟨rfl, rfl, rfl, rfl, rfl, rfl⟩ (.inl rfl)
    · rw [he]
      exact .completed hx hf (done_cases hb)
    · rw [he, body_raised hb]
      refine .faulted hx hf ?_
      split
      · rename_i hi
        exact .inr ⟨by rw [hi.1], rfl⟩
      · exact .inl rfl
  | illegal a v w ha hv =>
    obtain ⟨rfl, -⟩ := decode_illegal hv
    rw [address_of_elementAt_reg ha] at hx
    rcases illegalCommand_cases w { s with host := rest } with ⟨-, he⟩ | ⟨hf, he⟩
    · rw [he]
      exact .quiet ⟨rfl, rfl, rfl, rfl, rfl, rfl⟩ (.inl rfl)
    · rw [he]
      exact .faulted hx hf (.inl rfl)

theorem DoneCase.fault {s t : State} {i : Instr} (h : DoneCase s i t) : t.fault = s.fault := by
  cases h <;> rfl

/-! ### Lighting and decoding the map (R151, R170, R171) -/

/-- The cells AUTOTILE writes are all different. -/
theorem autotileWrites_nodup (s : State) : ((autotileWrites s).map Prod.fst).Nodup := by
  simp only [autotileWrites, List.map_flatMap, List.map_map]
  rw [List.nodup_flatMap]
  have hcell {q q' : Fin 4} {x y : Nat × Nat} (hx : x ∈ quadCells s.cfg.toCfg) (hy : y ∈ quadCells s.cfg.toCfg)
      (h : cellIndex s.cfg.toCfg q x.1 x.2 = cellIndex s.cfg.toCfg q' y.1 y.2) : q = q' ∧ x = y := by
    rw [mem_quadCells] at hx hy
    obtain ⟨hq, h1, h2⟩ := cellIndex_inj s.cfg hx.1 hx.2 hy.1 hy.2 h
    exact ⟨hq, Prod.ext h1 h2⟩
  constructor
  · intro q _
    exact (quadCells_nodup _).map_on fun x hx y hy h => (hcell hx hy h).2
  · refine List.Pairwise.imp (R := (· ≠ ·)) ?_ (show slots.Nodup by decide)
    intro q q' hne a ha ha'
    obtain ⟨x, hx, rfl⟩ := List.mem_map.1 ha
    obtain ⟨y, hy, h⟩ := List.mem_map.1 ha'
    exact hne (hcell hy hx h).1.symm

/-- After AUTOTILE's writes every cell of the map has its value of R151. -/
theorem bgLookup_autotileWrites (s : State) (m : Memory 16) {q : Fin 4} {t c : Nat} (ht : t < qh s.cfg.toCfg)
    (hc : c < qw s.cfg.toCfg) :
    bgLookup s.draw (memInsertAll m (autotileWrites s)) (cellIndex s.cfg.toCfg q t c) = cellValue s q t c := by
  have hwrite := mem_autotileWrites.2 ⟨q, t, c, ht, hc, rfl⟩
  rw [bgLookup, memLookup_insertAll_of_mem m _ hwrite (autotileWrites_nodup s)]
  rfl

theorem litCells_nodup (s : State) (q : Fin 4) : (litCells s q).Nodup := by
  refine ((quadCells_nodup _).filter _).map_on fun x hx y hy h => ?_
  have hx := mem_quadCells.1 (List.mem_of_mem_filter hx)
  have hy := mem_quadCells.1 (List.mem_of_mem_filter hy)
  obtain ⟨-, h1, h2⟩ := cellIndex_inj s.cfg hx.1 hx.2 hy.1 hy.2 h
  exact Prod.ext h1 h2

/-- A cell of the map is lit when it is an occupied cell of the quadrant. -/
theorem cellIndex_mem_litCells {s : State} {q p : Fin 4} {t c : Nat} (ht : t < qh s.cfg.toCfg)
    (hc : c < qw s.cfg.toCfg) : cellIndex s.cfg.toCfg p t c ∈ litCells s q ↔ p = q ∧ occ s q t c = true := by
  rw [mem_litCells]
  constructor
  · rintro ⟨t', c', ht', hc', ho, h⟩
    obtain ⟨rfl, rfl, rfl⟩ := cellIndex_inj s.cfg ht' hc' ht hc h
    exact ⟨rfl, ho⟩
  · rintro ⟨rfl, ho⟩
    exact ⟨t, c, ht, hc, ho, rfl⟩

/-- The value ILLUM writes is a background cell of the lit palette and of the tile in bits 7:0 (R69, R170). -/
theorem litValue_eq (p : BitVec 3) (x : BgCell) :
    truncNat 16 (p.toNat * 256 + x.toNat % 256) = bgCell p (x.setWidth 8) := by
  rw [bgCell, BitVec.toNat_setWidth]

/-- What ILLUM's writes do to every read. -/
theorem bgLookup_litCells (s : State) (q : Fin 4) (m : Memory 16) (a : Nat) :
    bgLookup s.draw ((litCells s q).foldl (lightCell s) m) a =
      if a ∈ litCells s q then bgCell s.cfg.litPal ((bgLookup s.draw m a).setWidth 8) else bgLookup s.draw m a := by
  split
  · rw [bgLookup_light_of_mem s _ (litCells_nodup s q) m ‹_›, litValue_eq]
  · exact bgLookup_light_of_not_mem s _ m ‹_›

@[simp] theorem bgCell_tile (p : BitVec 3) (t : Byte) : (bgCell p t).setWidth 8 = t := by
  apply BitVec.eq_of_toNat_eq
  have := t.isLt
  rw [BitVec.toNat_setWidth, bgCell_toNat]
  omega

/-- A cell made of a palette and a tile has 0 in bits 15:11 (R69). -/
theorem bgCell_top (p : BitVec 3) (t : Byte) : (bgCell p t).extractLsb' 11 5 = 0 := by
  apply BitVec.eq_of_toNat_eq
  have := p.isLt
  have := t.isLt
  rw [BitVec.extractLsb'_toNat, bgCell_toNat, Nat.shiftRight_eq_div_pow]
  change _ = 0
  omega

theorem cellValue_top (s : State) (q : Fin 4) (t c : Nat) : (cellValue s q t c).extractLsb' 11 5 = 0 := by
  unfold cellValue
  split <;> exact bgCell_top _ _

/-- AUTOTILE leaves the map unlit. -/
theorem mapUnlit_of_autotile {s t : State} (h : DoneCase s .autotile t) : MapUnlit t := by
  cases h with
  | autotile => exact fun q r c hr hc => bgLookup_autotileWrites s s.bg hr hc

/-- An unlit map is decoded. -/
theorem mapDecoded_of_unlit {s : State} (h : MapUnlit s) : MapDecoded s := by
  intro q t c ht hc
  rw [h q t c ht hc, cellValue]
  split
  · exact .inl rfl
  · rfl

/-- A decoded map stays decoded when each of its cells stays, or is occupied and is lit. -/
theorem mapDecoded_of_cells {s t : State} (hcfg : t.cfg = s.cfg) (hdraw : t.draw = s.draw) (hchunk : t.chunk = s.chunk)
    (hcells : ∀ q r c, r < qh s.cfg.toCfg → c < qw s.cfg.toCfg →
      readBg t (cellIndex s.cfg.toCfg q r c) = readBg s (cellIndex s.cfg.toCfg q r c)
        ∨ occ s q r c = true ∧ readBg t (cellIndex s.cfg.toCfg q r c)
            = bgCell s.cfg.litPal ((readBg s (cellIndex s.cfg.toCfg q r c)).setWidth 8))
    (h : MapDecoded s) : MapDecoded t := by
  have hread : readChunk t = readChunk s := by
    funext q i
    rw [readChunk, hdraw, hchunk, readChunk]
  have hocc : occ t = occ s := by
    funext q r c
    rw [occ, hcfg, hread, occ]
  have hvariant : cellVariant t = cellVariant s := by
    funext q r c
    simp only [cellVariant, neighbourMask, hcfg, hocc]
  rw [MapDecoded, hcfg, hocc, hvariant]
  intro q r c hr hc
  have hold := h q r c hr hc
  rcases hcells q r c hr hc with hsame | ⟨ho, hlit⟩
  · rw [hsame]
    exact hold
  · rw [if_pos ho] at hold ⊢
    rw [hlit]
    rcases hold with hold | hold <;> rw [hold, bgCell_tile] <;> exact .inr rfl

theorem mapDecoded_congr {s t : State} (hcfg : t.cfg = s.cfg) (hdraw : t.draw = s.draw) (hchunk : t.chunk = s.chunk)
    (hbg : t.bg = s.bg) (h : MapDecoded s) : MapDecoded t :=
  mapDecoded_of_cells hcfg hdraw hchunk (fun _ _ _ _ _ => .inl (by rw [readBg, hdraw, hbg, readBg])) h

/-- A command that completes keeps a decoded map decoded (R46 e, R171). -/
theorem mapDecoded_of_done {i : Instr} {s t : State} (hd : DoneCase s i t) (h : MapDecoded s) : MapDecoded t := by
  cases hd with
  | autotile hs => exact mapDecoded_of_unlit (mapUnlit_of_autotile (.autotile hs))
  | illum q =>
    refine mapDecoded_of_cells (s := s) rfl rfl rfl (fun p r c hr hc => ?_) h
    have hread := bgLookup_litCells s q s.bg (cellIndex s.cfg.toCfg p r c)
    split at hread
    · rename_i hmem
      obtain ⟨rfl, ho⟩ := (cellIndex_mem_litCells hr hc).1 hmem
      exact .inr ⟨ho, hread⟩
    · exact .inl hread
  | _ => exact mapDecoded_congr rfl rfl rfl rfl h

/-! ### Registers a command does not read (R31) -/

/-- Values for the operand registers and the tag registers. -/
structure OperandValues where
  src : Word
  width : Word
  height : Word
  len : Word
  pal : Word
  dst : Word
  quad : Word
  color : Word
  chunkMagic : PerSlot
  chunkLen : PerSlot

/-- The state with the values `x` in the registers that R31 does not list for the command. -/
def withUnread (x : OperandValues) (i : Instr) (s : State) : State :=
  match i with
  | .nop =>
    { s with
      src := x.src, width := x.width, height := x.height, len := x.len, pal := x.pal, dst := x.dst
      quad := x.quad, color := x.color, chunkMagic := x.chunkMagic, chunkLen := x.chunkLen }
  | .find =>
    { s with
      src := x.src, width := x.width, height := x.height, len := x.len, dst := x.dst
      quad := x.quad, chunkMagic := x.chunkMagic, chunkLen := x.chunkLen }
  | .pack =>
    { s with
      width := x.width, height := x.height
      quad := x.quad, color := x.color, chunkMagic := x.chunkMagic, chunkLen := x.chunkLen }
  | .slice =>
    { s with
      len := x.len, quad := x.quad, color := x.color, chunkMagic := x.chunkMagic, chunkLen := x.chunkLen }
  | .autotile =>
    { s with
      src := x.src, width := x.width, height := x.height, len := x.len, pal := x.pal, dst := x.dst
      quad := x.quad, color := x.color }
  | .illum =>
    { s with
      src := x.src, width := x.width, height := x.height, len := x.len, pal := x.pal, dst := x.dst
      color := x.color, chunkMagic := x.chunkMagic, chunkLen := x.chunkLen }

theorem withUnread_fault (x : OperandValues) (i : Instr) (s : State) : (withUnread x i s).fault = s.fault := by
  cases i <;> rfl

theorem respond_withUnread (x : OperandValues) (i : Instr) (a : Answer) (s : State) :
    respond a (withUnread x i s) = withUnread x i (respond a s) := by
  cases i <;> rfl

theorem faultEntry_withUnread (x : OperandValues) (i : Instr) (w : Word) (f : Raise) (s : State) :
    faultEntry w f (withUnread x i s) = withUnread x i (faultEntry w f s) := by
  cases i <;> rfl

/-- The ending with the state in it changed by `g`. -/
def Ending.mapState (g : State → State) : Ending → Ending
  | .done t => .done (g t)
  | .raised t f => .raised (g t) f

theorem packCells_withUnread (x : OperandValues) (s : State) (p : Nat) (ks : List Nat) :
    packCells (withUnread x .slice s) p ks = packCells s p ks := by
  induction ks with
  | nil => rfl
  | cons k ks ih =>
    have hcell : packCell (withUnread x .slice s) p (sheetAddr (withUnread x .slice s) k)
        = packCell s p (sheetAddr s k) := rfl
    simp only [packCells, ih, hcell]

/-- The pseudocode of a command does not see the registers R31 does not list for it. -/
theorem body_withUnread (x : OperandValues) (i : Instr) (s : State) :
    bodyOf i (withUnread x i s) = (bodyOf i s).mapState (withUnread x i) := by
  cases i with
  | nop => rfl
  | find =>
    simp only [bodyOf, findBody, apply_ite (Ending.mapState _)]
    rfl
  | pack =>
    have hcell : packCell (withUnread x .pack s) (withUnread x .pack s).pal.toNat
          (fun r c => (withUnread x .pack s).src.toNat + r * 8 + c)
        = packCell s s.pal.toNat (fun r c => s.src.toNat + r * 8 + c) := rfl
    simp only [bodyOf, packBody, hcell, apply_ite (Ending.mapState _)]
    cases packCell s s.pal.toNat (fun r c => s.src.toNat + r * 8 + c) <;> rfl
  | slice =>
    have hcells : packCells (withUnread x .slice s) (withUnread x .slice s).pal.toNat
          (List.range (sheetCells (withUnread x .slice s)))
        = packCells s s.pal.toNat (List.range (sheetCells s)) := packCells_withUnread x s _ _
    simp only [bodyOf, sliceBody, hcells, apply_ite (Ending.mapState _)]
    cases packCells s s.pal.toNat (List.range (sheetCells s)) <;> rfl
  | autotile =>
    have hslots : checkSlots (withUnread x .autotile s) slots = checkSlots s slots := rfl
    simp only [bodyOf, autotileBody, hslots]
    cases checkSlots s slots <;> rfl
  | illum =>
    simp only [bodyOf, illumBody, apply_ite (Ending.mapState _)]
    rfl

theorem exec_withUnread (x : OperandValues) (i : Instr) (s : State) :
    ∃ t, exec i s = .next t ∧ exec i (withUnread x i s) = .next (withUnread x i t) := by
  refine ⟨_, exec_eq i s, ?_⟩
  have hbody := body_withUnread x i s
  have hfault := withUnread_fault x i s
  rw [exec_eq]
  rcases runCommand_cases (encode i) (bodyOf i) s with ⟨hf, he⟩ | ⟨hf, t, hb, he⟩ | ⟨hf, t, f, hb, he⟩
  · rw [he, runCommand_faulted _ _ (hfault.trans hf), respond_withUnread]
  · rw [hb] at hbody
    rw [he, runCommand_done (hfault.trans hf) hbody, respond_withUnread]
  · rw [hb] at hbody
    rw [he, runCommand_raised (hfault.trans hf) hbody, faultEntry_withUnread]

end Sys2Proof.Machine
end

section
/-! PROOFS. The statements about the state (10_state.md), from the layer above. -/

namespace Sys2Proof.Machine

/-- Settles O50: each case of a transaction keeps the invariant. -/
theorem stepKeepsInvariant : Obligations.StepKeepsInvariant := by
  intro s t h hstep
  rcases step_cases hstep with ⟨-, rfl⟩ | ⟨x, rest, -, hc⟩
  · exact h
  · exact inv_transact (inv_host h rest) hc

/-- Settles O56: AUTOTILE by its writes, every other step by the effects it can have. -/
theorem decodedMapPersists : Obligations.DecodedMapPersists := by
  refine ⟨fun s t hexec hf => ?_, fun s t hm hstep hquiet => ?_⟩
  · obtain ⟨-, u, hb, rfl⟩ := exec_completed hexec hf
    have hu : MapUnlit u := mapUnlit_of_autotile (done_cases hb)
    have hdecoded : MapDecoded u := mapDecoded_of_unlit hu
    exact ⟨hu, hdecoded⟩
  · cases step_effect hstep with
    | quiet h hc =>
      rcases hc with hc | ⟨a, v, rest, q, i, hx, ha⟩
      · exact mapDecoded_congr h.cfg h.draw hc h.bg hm
      · exact absurd ha ((hquiet _ _ hx).2 a v q i rfl)
    | reset hx hr => exact absurd hr (hquiet _ _ hx).1
    | @completed u i rest hx hf hd =>
      have hu : MapDecoded u := mapDecoded_of_done hd (mapDecoded_congr rfl rfl rfl rfl hm)
      exact hu
    | faulted => exact mapDecoded_congr (s := s) rfl rfl rfl rfl hm

/-- Settles O15: the CTRL write at its address, by bit 0. -/
theorem controlWriteResets : Obligations.ControlWriteResets := by
  intro s v rest hx
  rw [step_cons hx, transact_ctrl, writeControl]
  constructor
  · intro hv
    rw [if_pos ((bitAt_zero v).2 hv)]
    rfl
  · intro hv
    rw [if_neg (mt (bitAt_zero v).1 (by simp only [hv, Bool.false_eq_true, not_false_eq_true]))]
    rfl

/-- Settles O19, by the effects a step can have. -/
theorem faultFlagLifecycle : Obligations.FaultFlagLifecycle := by
  intro s t hstep
  cases step_effect hstep with
  | quiet h hc =>
    rw [h.fault]
    exact ⟨fun h0 h1 => by simp [h0] at h1, fun h1 h0 => by simp [h1] at h0⟩
  | reset hx hr hf => exact ⟨fun _ h1 => by simp [hf] at h1, fun _ _ => ⟨_, _, hx, hr⟩⟩
  | completed hx hf hd =>
    have ht := hd.fault
    exact ⟨fun _ h1 => by simp [ht, hf] at h1, fun h1 => by simp [hf] at h1⟩
  | faulted hx hf hr => exact ⟨fun _ _ => ⟨_, _, hx, rfl, rfl⟩, fun h1 => by simp [hf] at h1⟩

/-- Settles O21: refused, completed or faulted, a command writes what `body_done` and `body_raised` say. -/
theorem commandsKeepTheirInputs : Obligations.CommandsKeepTheirInputs := by
  intro i s
  refine ⟨_, exec_eq i s, ?_⟩
  rcases runCommand_cases (encode i) (bodyOf i) s with ⟨-, he⟩ | ⟨-, t, hb, he⟩ | ⟨-, t, f, hb, he⟩
  · rw [he]
    rfl
  · rw [he, body_done hb]
    rfl
  · rw [he, body_raised hb]
    rfl

/-- Settles O22, command by command. -/
theorem commandsReadOnlyTheirOperands : Obligations.CommandsReadOnlyTheirOperands := by
  intro s a b c d e f g h p q
  have key := fun i => exec_withUnread ⟨a, b, c, d, e, f, g, h, p, q⟩ i s
  exact ⟨key .nop, key .find, key .pack, key .slice, key .autotile, key .illum⟩

/-- Settles O36, from the row and the column of a cell in the map. -/
theorem quadrantsTileTheMap : Obligations.QuadrantsTileTheMap := by
  intro c
  refine ⟨fun q t col ht hc => ⟨cellIndex_eq_mapCell c.toCfg q t col, mapCell_lt c ht hc⟩,
    fun q t col q' t' col' ht hc ht' hc' h => mapCell_inj c ht hc ht' hc' h, fun a ha => exists_mapCell c ha, ?_⟩
  intro hw hh
  simp [quadStart, quadRow, quadCol, qw, qh, hw, hh]

/-- Settles O51, by induction on the list of words. -/
theorem faultedStateIsFrozen : Obligations.FaultedStateIsFrozen := by
  intro vs
  induction vs with
  | nil => exact fun _ _ _ hne => absurd rfl hne
  | cons v vs ih =>
    intro s hf hx _
    have hstep : Sys2Proof.core.step s = .next (answeredError { s with host := vs.map fun v => .write 0x06 v }) :=
      step_faulted_cmd hf hx
    simp only [List.length_cons, Host.Core.run, hstep]
    cases vs with
    | nil => rfl
    | cons v' vs => exact ih _ hf rfl (List.cons_ne_nil v' vs)

/-- Settles O52: both commands write cells made of a palette and a tile. -/
theorem writtenCellsHaveZeroTop : Obligations.WrittenCellsHaveZeroTop := by
  refine fun s t hf => ⟨fun hexec a ha => ?_, fun hexec q r c hq hr hc ho => ?_⟩
  · obtain ⟨-, u, hb, rfl⟩ := exec_completed hexec hf
    obtain ⟨q, r, c, hr, hc, rfl⟩ := exists_mapCell s.cfg ha
    cases done_cases hb with
    | autotile =>
      have hcell := bgLookup_autotileWrites s s.bg (q := q) hr hc
      rw [cellIndex_eq_mapCell] at hcell
      exact (congrArg _ hcell).trans (cellValue_top s q r c)
  · obtain ⟨-, u, hb, rfl⟩ := exec_completed hexec hf
    cases done_cases hb with
    | illum p hp =>
      obtain rfl : p = q := Fin.ext (hp.symm.trans hq)
      have hmem : cellIndex s.cfg.toCfg p r c ∈ litCells s p :=
        (cellIndex_mem_litCells hr hc).2 ⟨rfl, by rw [occ_inside s p hr hc]; exact decide_eq_true ho⟩
      have hcell := bgLookup_litCells s p s.bg (cellIndex s.cfg.toCfg p r c)
      rw [if_pos hmem, cellIndex_eq_mapCell] at hcell
      exact (congrArg _ hcell).trans (bgCell_top _ _)

/-- Settles O53: of the commands that complete, only PACK and SLICE write TILE. -/
theorem tileChangesOnlyByPackSliceReset : Obligations.TileChangesOnlyByPackSliceReset := by
  intro s t i b hstep hne
  cases step_effect hstep with
  | quiet h hc => exact absurd (by rw [readTile, h.tile, readTile]) hne
  | reset hx hr => exact ⟨_, _, hx, .inl hr⟩
  | faulted => exact absurd rfl hne
  | completed hx hf hd =>
    have ht := hd.fault.trans hf
    cases hd with
    | pack => exact ⟨_, _, hx, .inr ⟨ht, .inl rfl⟩⟩
    | slice => exact ⟨_, _, hx, .inr ⟨ht, .inr rfl⟩⟩
    | _ => exact absurd rfl hne

/-- Settles O54: of the commands that complete, only AUTOTILE and ILLUM write BG. -/
theorem mapChangesOnlyByAutotileIllumReset : Obligations.MapChangesOnlyByAutotileIllumReset := by
  intro s t a hstep hne
  cases step_effect hstep with
  | quiet h hc => exact absurd (by rw [readBg, h.draw, h.bg, readBg]) hne
  | reset hx hr => exact ⟨_, _, hx, .inl hr⟩
  | faulted => exact absurd rfl hne
  | completed hx hf hd =>
    have ht := hd.fault.trans hf
    cases hd with
    | autotile => exact ⟨_, _, hx, .inr ⟨ht, .inl rfl⟩⟩
    | illum => exact ⟨_, _, hx, .inr ⟨ht, .inr rfl⟩⟩
    | _ => exact absurd rfl hne

/-- Settles O55: NOP keeps RESULT, and so does every fault but that of FIND's colour. -/
theorem resultChangesOnlyByCommands : Obligations.ResultChangesOnlyByCommands := by
  intro s t hstep hne
  cases step_effect hstep with
  | quiet h hc => exact absurd h.result hne
  | reset hx hr => exact ⟨_, _, hx, .inl hr⟩
  | @completed u i rest hx hf hd =>
    have ht := hd.fault.trans hf
    have hi : i ≠ .nop := by
      rintro rfl
      cases hd
      exact hne rfl
    exact ⟨_, _, hx, .inr ⟨i, rfl, hi, .inl ht⟩⟩
  | faulted hx hf hr =>
    rcases hr with hr | ⟨rfl, rfl⟩
    · exact absurd hr hne
    · exact ⟨_, _, hx, .inr ⟨.find, rfl, by decide, .inr ⟨rfl, rfl⟩⟩⟩

/-- Settles O4: the next transaction at the address of CMD, decoded. -/
theorem stepRunsDecodedCommand : Obligations.StepRunsDecodedCommand := by
  intro s v rest i hx hv
  rw [step_cons hx, transact_cmd, commandWrite, hv]

/-- Settles O17, register by register. -/
theorem resetStateMeetsTable : Obligations.ResetStateMeetsTable := by
  refine ⟨rfl, fun r hr => ?_, fun _ _ => rfl, rfl⟩
  cases r with
  | id => exact absurd rfl hr
  | chunkMagic q => fin_cases q <;> rfl
  | chunkLen q => fin_cases q <;> rfl
  | _ => rfl

/-- Settles O18, by the value of FAULT. -/
theorem statusWordsShowTheRecord : Obligations.StatusWordsShowTheRecord := by
  intro s
  have herr : (readReg s .err).toNat = s.err.toNat := by
    have := s.err.isLt
    simp only [readReg, errWord, zext, BitVec.toNat_setWidth]
    omega
  refine ⟨?_, herr, ?_⟩ <;> cases hf : s.fault <;> simp [readReg, statusWord, faultPin, hf]

/-- Settles O35: the four strings by computation, the byte places by the value of an appended word. -/
theorem slotIdentifiers : Obligations.SlotIdentifiers := by
  refine ⟨by decide, fun a b c d => ?_⟩
  have := a.isLt
  have := b.isLt
  have := c.isLt
  have := d.isLt
  simp only [identifier, BitVec.toNat_append]
  rw [← Nat.shiftLeft_add_eq_or_of_lt (by omega), ← Nat.shiftLeft_add_eq_or_of_lt (by omega),
    ← Nat.shiftLeft_add_eq_or_of_lt (by omega)]
  simp only [Nat.shiftLeft_eq]
  omega

/-- Settles O49: the reset state lists no element and has no fault. -/
theorem invariantAtReset : Obligations.InvariantAtReset := by
  constructor <;> simp [State.reset, Memory.wf, Memory.within, faultRecordLegal]

end Sys2Proof.Machine
end

section
/-! SUPPORT. The layer for the statements about the host port (20_memory.md): the address map read forwards, what a read
answers, when a write is refused or stored, and what every element reads as after a host write. -/

namespace Sys2Proof.Machine

/-! ### The address map, read forwards (R62) -/

/-- The map finds every existing element at its address. A register lies in the window; the other windows begin one
after another, and the constraints of R7 keep each element inside its own. -/
theorem elementAt_elementAddr (c : LegalCfg) {e : Element} (he : elementExists c.toCfg e = true) :
    elementAt c.toCfg (elementAddr e) = some e := by
  obtain ⟨-, -, -, -, hmap, hquad, hpix, htile, -⟩ := cfg_facts c
  cases e with
  | reg r => exact elementAt_regAddr c.toCfg r
  | pal p i =>
    simp only [elementExists, Bool.and_eq_true, decide_eq_true_eq] at he
    rw [elementAddr, palIndex, elementAt, if_neg (by omega), if_pos (by omega)]
    exact congrArg some (congrArg₂ Element.pal (by omega) (by omega))
  | chunk q i =>
    have hi : i < qw c.toCfg * qh c.toCfg := of_decide_eq_true he
    rw [elementAddr, chunkIndex, elementAt, if_neg (by omega), if_neg (by omega), if_pos (by omega), if_pos (by omega)]
    exact congrArg some (congrArg₂ Element.chunk (Fin.ext (by rw [Fin.val_ofNat]; omega)) (by omega))
  | bg i =>
    have hi : i < c.bgW * c.bgH := of_decide_eq_true he
    rw [elementAddr, elementAt, if_neg (by omega), if_neg (by omega), if_neg (by omega), if_pos (by omega),
      Nat.add_sub_cancel_left]
  | tile t b =>
    simp only [elementExists, Bool.and_eq_true, decide_eq_true_eq] at he
    rw [elementAddr, tileIndex, elementAt, if_neg (by omega), if_neg (by omega), if_neg (by omega), if_neg (by omega),
      if_pos (by omega)]
    exact congrArg some (congrArg₂ Element.tile (by omega) (by omega))
  | pix i =>
    have hi : i < c.pixN := of_decide_eq_true he
    rw [elementAddr, elementAt, if_neg (by omega), if_neg (by omega), if_neg (by omega), if_neg (by omega),
      if_neg (by omega), if_pos (by omega), Nat.add_sub_cancel_left]

/-- Every element the map finds lies below 0x20000, the end of the last window (R62). -/
theorem lt_of_elementAt {c : LegalCfg} {a : Nat} {e : Element} (h : elementAt c.toCfg a = some e) : a < 0x20000 := by
  obtain ⟨-, -, -, -, hmap, -, hpix, htile, -⟩ := cfg_facts c
  by_contra hge
  rw [elementAt, if_neg (by omega), if_neg (by omega), if_neg (by omega), if_neg (by omega), if_neg (by omega),
    if_neg (by omega)] at h
  cases h

/-- An address that no existing element has is unmapped. -/
theorem elementAt_eq_none {c : LegalCfg} {a : Nat}
    (h : ∀ e, elementExists c.toCfg e = true → elementAddr e ≠ a) : elementAt c.toCfg a = none := by
  refine Option.eq_none_iff_forall_ne_some.2 fun e hat => ?_
  obtain ⟨he, ha⟩ := elementAt_sound hat
  exact h e he ha

/-! ### What a transaction at an address does (R61) -/

/-- A read of a mapped address answers OK, with 0 for a write-only register. -/
theorem hostRead_mapped {s : State} {a : Word} {e : Element} (h : elementAt s.cfg.toCfg a.toNat = some e) :
    hostRead s a = .read .ok (if elementAccess e = .wo then 0 else readElement s e) := by
  simp only [hostRead, h]
  cases elementAccess e <;> rfl

/-- A read of an unmapped address answers ERROR with 0 (R65). -/
theorem hostRead_unmapped {s : State} {a : Word} (h : elementAt s.cfg.toCfg a.toNat = none) :
    hostRead s a = .read .error 0 := by
  simp only [hostRead, h]

/-- A read changes nothing but the answer (R61). -/
theorem transact_read {s : State} {a : Word} {x : Answer} (h : hostRead s a = x) :
    transact (.read a) s = .next (respond x s) := by
  rw [← h, transact]

/-- A write of an unmapped address or of a read-only element is refused (R65). -/
theorem transact_write_refused {s : State} {a : Word} (v : Word)
    (h : ∀ e, elementAt s.cfg.toCfg a.toNat = some e → elementAccess e = .ro) :
    transact (.write a v) s = .next (respond (.write .error) s) := by
  obtain ⟨t, ht, hc⟩ := transact_cases s (.write a v)
  rw [ht]
  cases hc with
  | refused => rfl
  | element _ _ e ha he => exact absurd (he.symm.trans (h e ha)) (by decide)
  | control _ _ ha => exact absurd (h _ ha) (by decide)
  | command _ _ i ha => exact absurd (h _ ha) (by decide)
  | illegal _ _ w ha => exact absurd (h _ ha) (by decide)

/-- A write of a readable and writable element stores it and answers OK, whatever FAULT is (R61, R66). -/
theorem transact_write_stored {s : State} {a : Word} (v : Word) {e : Element}
    (ha : elementAt s.cfg.toCfg a.toNat = some e) (he : elementAccess e = .rw) :
    transact (.write a v) s = .next (respond (.write .ok) (writeElement s e v)) := by
  have hrw : ∀ e', elementAt s.cfg.toCfg a.toNat = some e' → elementAccess e' = .rw := by
    intro e' ha'
    cases ha.symm.trans ha'
    exact he
  obtain ⟨t, ht, hc⟩ := transact_cases s (.write a v)
  rw [ht]
  cases hc with
  | element _ _ e' ha' =>
    cases ha.symm.trans ha'
    rfl
  | refused _ _ ha' =>
    rcases ha' with hnone | ⟨e', ha', hro⟩
    · exact absurd (hnone.symm.trans ha) (by simp)
    · exact absurd (hro.symm.trans (hrw e' ha')) (by decide)
  | control _ _ ha' => exact absurd (hrw _ ha') (by decide)
  | command _ _ i ha' => exact absurd (hrw _ ha') (by decide)
  | illegal _ _ w ha' => exact absurd (hrw _ ha') (by decide)

/-! ### What an element reads as after a host write (R61, R63) -/

/-- The model's own record of the last answer is not seen by a read. -/
@[simp] theorem readElement_respond (a : Answer) (s : State) (e : Element) :
    readElement (respond a s) e = readElement s e := rfl

@[simp] theorem writeElement_host (s : State) (e : Element) (v : Word) : (writeElement s e v).host = s.host := by
  cases e with
  | reg r => cases r <;> rfl
  | _ => rfl

/-- A readable and writable register keeps all 32 bits (R30, R32, R33). -/
theorem readReg_writeReg_self (s : State) {r : Reg} (v : Word) (h : regAccess r = .rw) :
    readReg (writeReg s r v) r = v := by
  cases r with
  | chunkMagic q => exact (slotGet_slotSet _ q q v).trans (if_pos rfl)
  | chunkLen q => exact (slotGet_slotSet _ q q v).trans (if_pos rfl)
  | id | ctrl | status | err | errInfo | errCmd | cmd | result => cases h
  | _ => rfl

/-- A host write of a register leaves every other register. -/
theorem readReg_writeReg_of_ne (s : State) {r r' : Reg} (v : Word) (h : r' ≠ r) :
    readReg (writeReg s r v) r' = readReg s r' := by
  cases r with
  | chunkMagic q =>
    cases r' with
    | chunkMagic q' => exact (slotGet_slotSet _ q q' v).trans (if_neg fun hq => h (by rw [hq]))
    | _ => rfl
  | chunkLen q =>
    cases r' with
    | chunkLen q' => exact (slotGet_slotSet _ q q' v).trans (if_neg fun hq => h (by rw [hq]))
    | _ => rfl
  | _ => cases r' <;> first | rfl | exact absurd rfl h

/-- A character of CHUNK keeps the low 8 bits of the data (R39, R63). -/
theorem readElement_writeElement_chunk (s : State) (q : Fin 4) (i : Nat) (v : Word) :
    (readElement (writeElement s (.chunk q i) v) (.chunk q i)).toNat = v.toNat % 256 := by
  have hread : readChunk (writeElement s (.chunk q i) v) q i = truncWord 8 v := by
    simp [readChunk, writeElement]
  simp only [readElement, hread, zext, truncWord, truncNat, BitVec.toNat_setWidth, BitVec.toNat_ofNat]
  omega

/-- Every other readable and writable element is 32 bits wide and keeps the data whole (R30, R35, R36, R63). -/
theorem readElement_writeElement_word (s : State) {e : Element} (v : Word) (he : elementAccess e = .rw)
    (hchunk : ∀ q i, e ≠ .chunk q i) : readElement (writeElement s e v) e = v := by
  cases e with
  | reg r => exact readReg_writeReg_self s v he
  | pal p i => simp [readElement, readPal, writeElement]
  | pix i => simp [readElement, readPix, writeElement]
  | chunk q i => exact absurd rfl (hchunk q i)
  | bg i => cases he
  | tile t b => cases he

/-- A host write leaves every other existing element: registers and memories are apart, and within PAL and CHUNK two
existing elements have two numbers (R36, R39). -/
theorem readElement_writeElement_of_ne (s : State) {e e' : Element} (v : Word) (hne : e' ≠ e)
    (he : elementExists s.cfg.toCfg e = true) (he' : elementExists s.cfg.toCfg e' = true) :
    readElement (writeElement s e v) e' = readElement s e' := by
  have hquad := (cfg_facts s.cfg).quadrant
  cases e with
  | bg i => rfl
  | tile t b => rfl
  | reg r =>
    cases e' with
    | reg r' => exact readReg_writeReg_of_ne s v fun hr => hne (by rw [hr])
    | _ => cases r <;> rfl
  | pal p i =>
    cases e' with
    | pal p' i' =>
      simp only [elementExists, Bool.and_eq_true, decide_eq_true_eq] at he he'
      have hindex : palIndex p' i' ≠ palIndex p i := by
        simp only [ne_eq, Element.pal.injEq] at hne
        unfold palIndex
        omega
      simp only [readElement, readPal, writeElement, memLookup_insert_of_ne _ _ hindex]
    | _ => rfl
  | chunk q i =>
    cases e' with
    | chunk q' i' =>
      simp only [elementExists, decide_eq_true_eq] at he he'
      have hindex : chunkIndex q' i' ≠ chunkIndex q i := by
        simp only [ne_eq, Element.chunk.injEq] at hne
        unfold chunkIndex
        omega
      simp only [readElement, readChunk, writeElement, memLookup_insert_of_ne _ _ hindex]
    | _ => rfl
  | pix i =>
    cases e' with
    | pix i' =>
      have hi : i' ≠ i := fun h => hne (by rw [h])
      simp only [readElement, readPix, writeElement, memLookup_insert_of_ne _ _ hi]
    | _ => rfl

end Sys2Proof.Machine
end

section
/-! PROOFS. The statements about the host port (20_memory.md), from the layer above. -/

namespace Sys2Proof.Machine

/-- Settles O10: the map forwards and backwards; one address cannot name two elements, since the map is a function. -/
theorem addressMapIsExact : Obligations.AddressMapIsExact := by
  intro c
  refine ⟨fun e he => ?_, fun e e' he he' ha => ?_, fun a e h => elementAt_sound h⟩
  · have hat := elementAt_elementAddr c he
    exact ⟨(lt_of_elementAt hat).trans (by decide), hat⟩
  · have hat := elementAt_elementAddr c he
    rw [ha, elementAt_elementAddr c he'] at hat
    exact (Option.some.inj hat).symm

/-- Settles O7: the answer of a read by whether its address is mapped. -/
theorem hostReadFollowsTable : Obligations.HostReadFollowsTable := by
  intro s a rest hx
  rw [step_cons hx]
  refine ⟨fun e he ha => ?_, fun hno => ?_⟩
  · have hat : elementAt s.cfg.toCfg a.toNat = some e := ha ▸ elementAt_elementAddr s.cfg he
    exact transact_read (hostRead_mapped (s := { s with host := rest }) hat)
  · have hat : elementAt s.cfg.toCfg a.toNat = none := elementAt_eq_none hno
    exact transact_read (hostRead_unmapped (s := { s with host := rest }) hat)

/-- Settles O9: a read of an unmapped address, and the two reasons to refuse a write. -/
theorem refusedAccessChangesNothing : Obligations.RefusedAccessChangesNothing := by
  intro s a v rest
  refine ⟨fun hno => ⟨fun hx => (hostReadFollowsTable s a rest hx).2 hno, fun hx => ?_⟩, fun e he ha hro hx => ?_⟩
  · rw [step_cons hx]
    have hat : elementAt s.cfg.toCfg a.toNat = none := elementAt_eq_none hno
    exact transact_write_refused v fun e he => absurd (hat.symm.trans he) (by simp)
  · rw [step_cons hx]
    have hat : elementAt s.cfg.toCfg a.toNat = some e := ha ▸ elementAt_elementAddr s.cfg he
    exact transact_write_refused v fun e' he' => Option.some.inj (hat.symm.trans he') ▸ hro

/-- Settles O8: the write is stored, and then each element is read. -/
theorem hostWriteStoresElement : Obligations.HostWriteStoresElement := by
  intro s a v rest e hx he ha hrw
  have hat : elementAt s.cfg.toCfg a.toNat = some e := ha ▸ elementAt_elementAddr s.cfg he
  have hsame := writeElement_sameOutputs { s with host := rest } e v
  refine ⟨_, (step_cons hx).trans (transact_write_stored v hat hrw), rfl, writeElement_host _ e v, hsame.cfg, hsame.draw,
    hsame.fault, ?_, fun e' hne he' => ?_⟩
  · rw [readElement_respond]
    split
    · exact readElement_writeElement_chunk _ _ _ v
    · rename_i hchunk
      exact congrArg _ (readElement_writeElement_word _ v hrw hchunk)
  · exact readElement_writeElement_of_ne { s with host := rest } v hne he he'

end Sys2Proof.Machine
end

section
/-! SUPPORT. The layer for the statements about the encoding (30_encoding.md): the codec read forwards, and what R93 says of
a word's two fields as a bound on its value. -/

namespace Sys2Proof

/-- The decoder reads each command from its own word (R91, R95). -/
@[simp] theorem decode_encode (i : Instr) : decode (encode i) = .command i := by
  cases i <;> rfl

/-- The opcodes of the map end at 5 (R91). -/
theorem opcode_le_five (i : Instr) : opcode i ≤ 5 := by
  cases i <;> decide

/-- A word is above the last opcode exactly when bits 31:8 are not all 0 or bits 7:0 are above it (R93). -/
theorem five_lt_iff_fields (v : Word) :
    5 < v.toNat ↔ v.extractLsb' 8 24 ≠ 0 ∨ 5 < (v.extractLsb' 0 8).toNat := by
  have hv := v.isLt
  have hhigh : v.extractLsb' 8 24 = 0 ↔ v.toNat / 2 ^ 8 % 2 ^ 24 = 0 := by
    rw [← BitVec.toNat_inj, BitVec.extractLsb'_toNat, Nat.shiftRight_eq_div_pow]
    rfl
  have hlow : (v.extractLsb' 0 8).toNat = v.toNat % 2 ^ 8 := by
    rw [BitVec.extractLsb'_toNat, Nat.shiftRight_zero]
  rw [ne_eq, hhigh, hlow]
  omega

/-- A table row that gives all 32 bits of a word is read as the word (log 18). -/
theorem decodeTableWord_of_decode {v : Word} {i : Instr} (h : decode v = .command i) :
    decodeTableWord 32 v.toNat = some i := by
  rw [decodeTableWord, Nat.mod_eq_of_lt v.isLt, BitVec.ofNat_toNat, BitVec.setWidth_eq, h]

namespace Machine

/-- The transaction of a 32-bit word is the write of that word to CMD (R21, log 18). -/
theorem fetchTransaction_toNat (v : Word) : fetchTransaction 32 v.toNat = .write 0x06 v := by
  rw [fetchTransaction, Nat.mod_eq_of_lt v.isLt, BitVec.ofNat_toNat, BitVec.setWidth_eq]
  rfl

end Machine
end Sys2Proof
end

section
/-! PROOFS. The statements about the encoding (30_encoding.md), from the layer above. -/

namespace Sys2Proof.Machine

/-- Settles O3: every command decodes from its word, and a word that decodes is its command's word. -/
theorem decodeEncodeAgree : Obligations.DecodeEncodeAgree :=
  ⟨fun i _ => decode_encode i, fun _ _ => encode_of_decode⟩

/-- Settles O2, by what the word decodes to: a command's word is its opcode, an illegal word is above every opcode. -/
theorem decoderIsExact : Obligations.DecoderIsExact := by
  intro v
  refine ⟨fun hle => ?_, fun hlt => ?_, five_lt_iff_fields v⟩
  · cases hv : decode v with
    | command i => exact ⟨i, rfl, by rw [← encode_toNat, encode_of_decode hv]⟩
    | illegalCommand w => exact absurd (decode_illegal hv).2 (by omega)
  · cases hv : decode v with
    | command i =>
      have hop := opcode_le_five i
      rw [← encode_toNat, encode_of_decode hv] at hop
      omega
    | illegalCommand w => rw [(decode_illegal hv).1]

/-- Settles O11: the map lies below 2^32, so the cut of `addr()` to a word takes nothing off an element's address. -/
theorem targetsNameTheirElements : Obligations.TargetsNameTheirElements := by
  intro c e he
  obtain ⟨hlt, hat⟩ := (addressMapIsExact c).1 e he
  have haddr : (targetAddr (.element e)).toNat = elementAddr e := by
    rw [targetAddr, truncNat, BitVec.toNat_ofNat, Nat.mod_eq_of_lt hlt]
  rw [haddr, hat]

/-- Settles O1: the words of the map by computation; decoding them is decoding what the commands encode to. -/
theorem opcodeMapWords : Obligations.OpcodeMapWords :=
  ⟨⟨decode_encode .nop, rfl⟩, ⟨decode_encode .find, rfl⟩, ⟨decode_encode .pack, rfl⟩, ⟨decode_encode .slice, rfl⟩,
    ⟨decode_encode .autotile, rfl⟩, ⟨decode_encode .illum, rfl⟩⟩

/-- Settles O12: the word in front of the queue is a CMD write of a word that decodes to the command, which
StepRunsDecodedCommand runs on the queue behind it. -/
theorem fetchWordRunsCommand : Obligations.FetchWordRunsCommand := by
  intro s i
  have hqueue : (s.withFetchWord 32 (encode i).toNat).host = .write 0x06 (encode i) :: s.host := by
    rw [State.withFetchWord, fetchTransaction_toNat]
  exact ⟨stepRunsDecodedCommand _ _ _ i hqueue (decode_encode i), decodeTableWord_of_decode (decode_encode i)⟩

end Sys2Proof.Machine
end

section
/-! SUPPORT. The layer for the statements about FIND (40_palette_find.md): a command's next state from how its pseudocode
ends, the palette indexer against the palette's four entries, and the three endings of FIND. -/

namespace Sys2Proof.Machine

/-! ### A command's next state, from how its pseudocode ends (R98, R200) -/

theorem exec_done {i : Instr} {s t : State} (hf : s.fault = false) (h : bodyOf i s = .done t) :
    exec i s = .next (answeredOk t) := by
  rw [exec_eq, runCommand_done hf h]
  rfl

theorem exec_raised {i : Instr} {s t : State} {f : Raise} (hf : s.fault = false) (h : bodyOf i s = .raised t f) :
    exec i s = .next (recorded t (truncNat 8 (faultNumber f.code)) (truncNat 32 f.info) (encode i)) := by
  rw [exec_eq, runCommand_raised hf h]
  rfl

/-! ### The palette indexer (R110) -/

/-- The indexer answers the palette index of a colour that the palette has. -/
theorem findIndex_of_isIndex {s : State} {p i : Nat} {colour : Word} (h : IsIndex s p colour i) :
    findIndex s p colour = i := by
  obtain ⟨hi, hcolour, hlower⟩ := h
  have hfind : ((List.range 4).find? fun j => readPal s p j == colour) = some i := by
    simpa [List.find?_range_eq_some, hi, hcolour] using hlower
  rw [findIndex, hfind, Option.getD_some]

/-- The indexer answers 4 for a colour that is at none of the four indices. -/
theorem findIndex_of_absent {s : State} {p : Nat} {colour : Word} (h : ∀ i < 4, readPal s p i ≠ colour) :
    findIndex s p colour = 4 := by
  have hfind : ((List.range 4).find? fun j => readPal s p j == colour) = none := by
    simpa [List.find?_range_eq_none] using h
  rw [findIndex, hfind, Option.getD_none]

/-! ### How FIND ends (R111) -/

theorem findBody_noPalette {s : State} (hp : 7 < s.pal.toNat) : findBody s = .raised s (operandRange 0) :=
  if_pos hp

theorem findBody_found {s : State} {i : Nat} (hp : s.pal.toNat ≤ 7) (h : IsIndex s s.pal.toNat s.color i) :
    findBody s = .done (commitResult i s) := by
  have hi : i ≠ 4 := h.1.ne
  rw [findBody, if_neg hp.not_gt, findIndex_of_isIndex h, if_neg hi]

theorem findBody_absent {s : State} (hp : s.pal.toNat ≤ 7) (h : ∀ i < 4, readPal s s.pal.toNat i ≠ s.color) :
    findBody s = .raised (commitResult 4 s) ⟨.colorNotInPalette, s.color.toNat⟩ := by
  rw [findBody, if_neg hp.not_gt, if_pos (findIndex_of_absent h)]

end Sys2Proof.Machine
end

section
/-! PROOFS. The statement about FIND (40_palette_find.md), from the layer above. -/

namespace Sys2Proof.Machine

/-- Settles O24, by the three endings of FIND: no such palette, the colour found, the colour absent. -/
theorem findFollowsRule : Obligations.FindFollowsRule := by
  intro s hf
  refine ⟨fun hp => ?_, fun hp i hi => ?_, fun hp habsent => ?_⟩
  · exact exec_raised (i := .find) hf (findBody_noPalette hp)
  · exact exec_done (i := .find) hf (findBody_found hp hi)
  · have hexec := exec_raised (i := .find) hf (findBody_absent hp habsent)
    rwa [truncNat_toNat] at hexec

end Sys2Proof.Machine
end

section
/-! SUPPORT. The layer for the statements about PACK (41_tile_pack.md): a missing colour against the palette's four entries,
the first missing colour of a cell, the tile that a written cell reads as, and how PACK ends. -/

namespace Sys2Proof.Machine

/-! ### A pixel whose colour is missing (R120, R192) -/

theorem badPixel_of_inPalette {s : State} {p a : Nat} (h : InPalette s p (readPix s a)) : badPixel s p a = false := by
  obtain ⟨i, hi, hcolour⟩ := h
  have hfound : ((List.range 4).find? fun j => readPal s p j == readPix s a).isSome :=
    List.find?_isSome.2 ⟨i, List.mem_range.2 hi, beq_iff_eq.2 hcolour⟩
  obtain ⟨j, hj⟩ := Option.isSome_iff_exists.1 hfound
  have hlt : j < 4 := List.mem_range.1 (List.mem_of_find?_eq_some hj)
  rw [badPixel, findIndex, hj, Option.getD_some]
  exact beq_false_of_ne hlt.ne

theorem badPixel_of_absent {s : State} {p a : Nat} (h : ¬InPalette s p (readPix s a)) : badPixel s p a = true := by
  have habsent : ∀ i < 4, readPal s p i ≠ readPix s a := fun i hi hcolour => h ⟨i, hi, hcolour⟩
  exact beq_iff_eq.2 (findIndex_of_absent habsent)

/-- The packer's fault is that of the first missing colour in scan order. -/
theorem packCell_firstBad {s : State} {p : Nat} {addr : Nat → Nat → Nat} {r c : Nat} (hr : r < 8) (hc : c < 8)
    (hbad : ¬InPalette s p (readPix s (addr r c)))
    (hgood : ∀ r' < 8, ∀ c' < 8, 8 * r' + c' < 8 * r + c → InPalette s p (readPix s (addr r' c'))) :
    packCell s p addr = .error ⟨.colorNotInPalette, addr r c⟩ := by
  have hfirst : (scanOrder addr).find? (badPixel s p) = some (addr r c) := by
    obtain ⟨hlt, hplace⟩ := List.getElem?_eq_some_iff.1 (scanOrder_get addr hr hc)
    refine List.find?_eq_some_iff_getElem.2 ⟨badPixel_of_absent hbad, 8 * r + c, hlt, hplace, fun j hj => ?_⟩
    have hearlier : (scanOrder addr)[8 * (j / 8) + j % 8]? = some (addr (j / 8) (j % 8)) :=
      scanOrder_get addr (by omega) (by omega)
    rw [Nat.div_add_mod] at hearlier
    rw [(List.getElem?_eq_some_iff.1 hearlier).2,
      badPixel_of_inPalette (hgood (j / 8) (by omega) (j % 8) (by omega) (by omega)), Bool.not_false]
  rw [packCell, hfirst]

/-! ### The tile of a cell (R68, R120, R122) -/

theorem readTile_tileWrites (s : State) (t : Nat) (bytes : List Byte) {b : Nat} (hb : b < 16) :
    readTile (commitTiles (tileWrites t bytes) s) t b = bytes.getD b 0 :=
  tileLookup_insertAll_of_mem s.tile _ (mem_tileWrites.2 ⟨b, hb, rfl⟩) (tileWrites_nodup t bytes)

theorem readTile_tileWrites_of_ne (s : State) {t d b : Nat} (bytes : List Byte) (hb : b < 16) (hd : d ≠ t) :
    readTile (commitTiles (tileWrites t bytes) s) d b = readTile s d b := by
  refine tileLookup_insertAll_of_not_mem s.tile _ fun hmem => ?_
  simp only [tileWrites_keys, List.mem_map, List.mem_range, tileIndex] at hmem
  omega

/-- A command that ends by writing TILE and RESULT leaves everything else. -/
theorem answeredOk_commitTiles (n : Nat) (ws : List (Nat × Byte)) (s : State) :
    answeredOk (commitResult n (commitTiles ws s))
      = { s with result := truncNat 32 n, tile := tileInsertAll s.tile ws, answer := some (.write .ok) } := rfl

@[simp] theorem readTile_answeredOk (s : State) (t b : Nat) : readTile (answeredOk s) t b = readTile s t b := rfl

@[simp] theorem readTile_commitResult (n : Nat) (s : State) (t b : Nat) :
    readTile (commitResult n s) t b = readTile s t b := rfl

/-- A tile that reads as the packed bytes of a cell holds the index of each of its pixels. -/
theorem holdsIndex_of_tileBytes {s u : State} {p t : Nat} {addr : Nat → Nat → Nat}
    (h : ∀ b < 16, readTile u t b = (tileBytes s p addr).getD b 0) {r c : Nat} (hr : r < 8) (hc : c < 8) :
    HoldsIndex u t r c (findIndex s p (readPix s (addr r c))) := by
  constructor
  · rw [h r (by omega), tileBytes_bit0 s p addr hr, planeByte_bit _ _ (fun i => by omega) hc]
  · rw [h (8 + r) (by omega), tileBytes_bit1 s p addr hr, planeByte_bit _ _ (fun i => by omega) hc]

/-- Unpacking gives back the index a tile holds. -/
theorem unpackPixel_of_holdsIndex {s : State} {t r c i : Nat} (hi : i < 4) (h : HoldsIndex s t r c i) :
    unpackPixel s t r c = i := by
  obtain ⟨hbit0, hbit1⟩ := h
  rw [unpackPixel, bitAt, bitAt, hbit0, hbit1]
  omega

/-! ### How PACK ends (R121) -/

/-- The number in PIX of pixel (r, c) of the cell PACK reads. -/
def packPixel (s : State) (r c : Nat) : Nat := s.src.toNat + 8 * r + c

/-- The index PACK finds for pixel (r, c). -/
def packIndex (s : State) (r c : Nat) : Nat := findIndex s s.pal.toNat (readPix s (packPixel s r c))

/-- Of PIX, the index of a pixel depends on that pixel's colour alone. -/
theorem packIndex_withPix {s : State} {pix : Memory 32} {r c : Nat}
    (h : readPix { s with pix := pix } (packPixel s r c) = readPix s (packPixel s r c)) :
    packIndex { s with pix := pix } r c = packIndex s r c := congrArg (findIndex s s.pal.toNat) h

/-- PACK's operands pass its tests of size and range. -/
structure PackOperandsGood (s : State) : Prop where
  size : s.len.toNat = 64
  palette : s.pal.toNat ≤ 7
  source : s.src.toNat + 64 ≤ s.cfg.pixN
  destination : s.dst.toNat < s.cfg.tileN

/-- What PACK leaves of `s` when it completes. -/
def packed (s : State) : State :=
  commitResult 1 (commitTiles (tileWrites s.dst.toNat (tileBytes s s.pal.toNat (packPixel s))) s)

/-- How PACK ends, its operands being good, when its one cell packs to bytes or to a fault. -/
def packEnding (s : State) : Except Raise (List Byte) → Ending
  | .error f => .raised s f
  | .ok bytes => .done (commitResult 1 (commitTiles (tileWrites s.dst.toNat bytes) s))

theorem packBody_size {s : State} (hl : s.len.toNat ≠ 64) : packBody s = .raised s ⟨.invalidTileSize, s.len.toNat⟩ :=
  if_pos hl

theorem packBody_palette {s : State} (hl : s.len.toNat = 64) (hp : 7 < s.pal.toNat) :
    packBody s = .raised s (operandRange 0) := by
  rw [packBody, if_neg (not_not.2 hl), if_pos hp]

theorem packBody_source {s : State} (hl : s.len.toNat = 64) (hp : s.pal.toNat ≤ 7)
    (hs : s.cfg.pixN < s.src.toNat + 64) : packBody s = .raised s (operandRange 1) := by
  rw [packBody, if_neg (not_not.2 hl), if_neg hp.not_gt, if_pos hs]

theorem packBody_destination {s : State} (hl : s.len.toNat = 64) (hp : s.pal.toNat ≤ 7)
    (hs : s.src.toNat + 64 ≤ s.cfg.pixN) (hd : s.cfg.tileN ≤ s.dst.toNat) :
    packBody s = .raised s (operandRange 2) := by
  rw [packBody, if_neg (not_not.2 hl), if_neg hp.not_gt, if_neg hs.not_gt, if_pos hd]

/-- With good operands PACK ends as its one cell packs. -/
theorem packBody_good {s : State} (h : PackOperandsGood s) :
    packBody s = packEnding s (packCell s s.pal.toNat (packPixel s)) := by
  obtain ⟨hl, hp, hs, hd⟩ := h
  have haddr : (fun r c => s.src.toNat + r * 8 + c) = packPixel s := by
    funext r c
    rw [packPixel, Nat.mul_comm]
  rw [packBody, if_neg (not_not.2 hl), if_neg hp.not_gt, if_neg hs.not_gt, if_neg hd.not_ge, haddr]
  rfl

theorem packBody_packed {s : State} (h : PackOperandsGood s)
    (hgood : ∀ r < 8, ∀ c < 8, InPalette s s.pal.toNat (readPix s (packPixel s r c))) : packBody s = .done (packed s) := by
  rw [packBody_good h, packCell_ok fun r hr c hc => badPixel_of_inPalette (hgood r hr c hc)]
  rfl

theorem packOperandsGood_of_done {s t : State} (h : packBody s = .done t) : PackOperandsGood s := by
  have hnot : ∀ f, packBody s ≠ .raised s f := fun f hf => Ending.noConfusion (h.symm.trans hf)
  have hl : s.len.toNat = 64 := by_contra fun hl => hnot _ (packBody_size hl)
  have hp : s.pal.toNat ≤ 7 := not_lt.1 fun hp => hnot _ (packBody_palette hl hp)
  have hs : s.src.toNat + 64 ≤ s.cfg.pixN := not_lt.1 fun hs => hnot _ (packBody_source hl hp hs)
  exact ⟨hl, hp, hs, not_le.1 fun hd => hnot _ (packBody_destination hl hp hs hd)⟩

/-- A PACK that completes has written the tile of its cell. -/
theorem eq_packed_of_done {s t : State} (h : packBody s = .done t) : t = packed s := by
  have hbody := packBody_good (packOperandsGood_of_done h)
  rcases packCell_cases s s.pal.toNat (packPixel s) with hcell | ⟨r, -, c, -, -, hcell⟩
  · rw [hcell, h] at hbody
    exact Ending.done.inj hbody
  · rw [hcell, h] at hbody
    cases hbody

theorem packed_holdsIndex (s : State) {r c : Nat} (hr : r < 8) (hc : c < 8) :
    HoldsIndex (answeredOk (packed s)) s.dst.toNat r c (packIndex s r c) :=
  holdsIndex_of_tileBytes (fun b hb => by
    rw [readTile_answeredOk, packed, readTile_commitResult, readTile_tileWrites s _ _ hb]) hr hc

theorem readTile_packed_of_ne (s : State) {d b : Nat} (hb : b < 16) (hd : d ≠ s.dst.toNat) :
    readTile (answeredOk (packed s)) d b = readTile s d b := by
  rw [readTile_answeredOk, packed, readTile_commitResult, readTile_tileWrites_of_ne s _ hb hd]

end Sys2Proof.Machine
end

section
/-! PROOFS. The statements about PACK (41_tile_pack.md), from the layer above. -/

namespace Sys2Proof.Machine

/-- Settles O25: PACK completes, and the tile it writes holds the index of each pixel. -/
theorem packWritesTheTile : Obligations.PackWritesTheTile := by
  intro s hf hl hp hs hd hgood
  have hbody : packBody s = .done (packed s) := packBody_packed ⟨hl, hp, hs, hd⟩ hgood
  refine ⟨answeredOk (packed s), exec_done (i := .pack) hf hbody, answeredOk_commitTiles _ _ s,
    fun r hr c hc i hi => ?_, fun d b hb hne => readTile_packed_of_ne s hb hne⟩
  have hholds := packed_holdsIndex s hr hc
  rw [packIndex, packPixel, findIndex_of_isIndex hi] at hholds
  exact ⟨hholds, unpackPixel_of_holdsIndex hi.1 hholds⟩

/-- Settles O26: both tiles hold, at (r, c), the index of one colour in one palette. -/
theorem packLanesAreIndependent : Obligations.PackLanesAreIndependent := by
  intro s s' t t' hpix hexec hexec' hf hf' r hr c hc hcolour
  obtain ⟨-, u, hbody, rfl⟩ := exec_completed hexec hf
  obtain ⟨-, u', hbody', rfl⟩ := exec_completed hexec' hf'
  obtain rfl := eq_packed_of_done hbody
  obtain rfl := eq_packed_of_done hbody'
  obtain ⟨pix, rfl⟩ : ∃ pix, s' = { s with pix := pix } := ⟨_, hpix⟩
  obtain ⟨hbit0, hbit1⟩ := packed_holdsIndex s hr hc
  have hholds := packed_holdsIndex { s with pix := pix } hr hc
  rw [packIndex_withPix hcolour] at hholds
  obtain ⟨hbit0', hbit1'⟩ := hholds
  exact ⟨hbit0'.trans hbit0.symm, hbit1'.trans hbit1.symm⟩

/-- Settles O27, test by test. -/
theorem packFaultsInOrder : Obligations.PackFaultsInOrder := by
  intro s hf
  refine ⟨fun hl => ?_, fun hl hp => ?_, fun hl hp hs => ?_, fun hl hp hs hd => ?_,
    fun hl hp hs hd r hr c hc hbad hgood => ?_⟩
  · have hexec := exec_raised (i := .pack) hf (packBody_size hl)
    rwa [truncNat_toNat] at hexec
  · exact exec_raised (i := .pack) hf (packBody_palette hl hp)
  · exact exec_raised (i := .pack) hf (packBody_source hl hp hs)
  · exact exec_raised (i := .pack) hf (packBody_destination hl hp hs hd)
  · have hbody : packBody s = .raised s ⟨.colorNotInPalette, packPixel s r c⟩ := by
      rw [packBody_good ⟨hl, hp, hs, hd⟩, packCell_firstBad (addr := packPixel s) hr hc hbad hgood]
      rfl
    exact exec_raised (i := .pack) hf hbody

end Sys2Proof.Machine
end

section
/-! SUPPORT. The layer for the statements about SLICE (42_sheet_slice.md): the sheet's pixels and its cells, the slicer on
cells that pack and on the first that does not, the tiles that a written sheet reads as, and how SLICE ends. -/

namespace Sys2Proof.Machine

/-! ### The pixels of the sheet (R131) -/

theorem sheetAddr_eq_sheetPixel (s : State) : sheetAddr s = sheetPixel s := rfl

/-- Pixel (r, c) of a cell of the sheet is a pixel (x, y) of the sheet's buffer. -/
theorem exists_bufferPixel {s : State} {k r c : Nat} (hw : s.width.toNat % 8 = 0) (hh : s.height.toNat % 8 = 0)
    (hk : k < sheetCells s) (hr : r < 8) (hc : c < 8) :
    ∃ y < s.height.toNat, ∃ x < s.width.toNat, s.src.toNat + y * s.width.toNat + x = sheetPixel s k r c := by
  have hpos : 0 < s.width.toNat / 8 := Nat.pos_of_mul_pos_right (Nat.zero_lt_of_lt hk)
  have hrow : k / (s.width.toNat / 8) < s.height.toNat / 8 := Nat.div_lt_of_lt_mul hk
  have hcol : k % (s.width.toNat / 8) < s.width.toNat / 8 := Nat.mod_lt k hpos
  rw [sheetPixel]
  generalize k / (s.width.toNat / 8) = cellRow at hrow ⊢
  generalize k % (s.width.toNat / 8) = cellColumn at hcol ⊢
  exact ⟨8 * (s.height.toNat / 8 - 1 - cellRow) + r, by omega, 8 * cellColumn + c, by omega,
    (Nat.add_assoc _ _ c).symm⟩

/-- The one cell of an 8 x 8 sheet is the cell PACK reads. -/
theorem sheetPixel_oneCell {s : State} (hw : s.width.toNat = 8) (hh : s.height.toNat = 8) :
    sheetPixel s 0 = packPixel s := by
  funext r c
  simp only [sheetPixel, packPixel, hw, hh]
  omega

/-! ### The slicer, cell by cell (R131) -/

/-- The bytes of cell k of the sheet. -/
def sheetTile (s : State) (k : Nat) : List Byte := tileBytes s s.pal.toNat (sheetPixel s k)

/-- Every pixel of cell k of the sheet has a colour of the palette. -/
def CellInPalette (s : State) (k : Nat) : Prop :=
  ∀ r < 8, ∀ c < 8, InPalette s s.pal.toNat (readPix s (sheetPixel s k r c))

theorem packCell_sheetTile {s : State} {k : Nat} (h : CellInPalette s k) :
    packCell s s.pal.toNat (sheetAddr s k) = .ok (sheetTile s k) :=
  packCell_ok fun r hr c hc => badPixel_of_inPalette (h r hr c hc)

theorem packCells_ok {s : State} {ks : List Nat} (h : ∀ k ∈ ks, CellInPalette s k) :
    packCells s s.pal.toNat ks = .ok (ks.map (sheetTile s)) := by
  induction ks with
  | nil => rfl
  | cons k ks ih =>
    obtain ⟨hk, hks⟩ := List.forall_mem_cons.1 h
    simp only [packCells, packCell_sheetTile hk, ih hks, List.map_cons]

/-- The slicer ends with the fault of the first cell that does not pack. -/
theorem packCells_firstBad {s : State} {k : Nat} {f : Raise} {earlier : List Nat} (later : List Nat)
    (hgood : ∀ j ∈ earlier, CellInPalette s j) (hbad : packCell s s.pal.toNat (sheetAddr s k) = .error f) :
    packCells s s.pal.toNat (earlier ++ k :: later) = .error f := by
  induction earlier with
  | nil => simp only [List.nil_append, packCells, hbad]
  | cons j earlier ih =>
    obtain ⟨hj, hearlier⟩ := List.forall_mem_cons.1 hgood
    simp only [List.cons_append, packCells, packCell_sheetTile hj, ih hearlier]

/-- The cells of a sheet, before, at and after cell k. -/
theorem exists_range_eq_append {k n : Nat} (hk : k < n) : ∃ later, List.range n = List.range k ++ k :: later := by
  refine ⟨(List.range n).drop (k + 1), ?_⟩
  have hsplit := List.take_append_drop k (List.range n)
  rw [List.take_range, Nat.min_eq_left hk.le, List.drop_eq_getElem_cons (by simpa using hk),
    List.getElem_range] at hsplit
  exact hsplit.symm

/-! ### The tiles of the sheet (R131) -/

/-- Byte b of the k-th tile is one of the writes. -/
theorem mem_sheetWrites {t k b : Nat} {tiles : List (List Byte)} {bytes : List Byte} (hk : tiles[k]? = some bytes)
    (hb : b < 16) : (tileIndex (t + k) b, bytes.getD b 0) ∈ sheetWrites t tiles := by
  induction tiles generalizing t k with
  | nil => cases hk
  | cons head tiles ih =>
    rw [sheetWrites, List.mem_append]
    cases k with
    | zero =>
      cases hk
      exact .inl (mem_tileWrites.2 ⟨b, hb, rfl⟩)
    | succ k =>
      have hmem := ih (t := t + 1) (List.getElem?_cons_succ ▸ hk)
      rw [Nat.add_right_comm] at hmem
      exact .inr hmem

theorem readTile_sheetWrites (s : State) {t k b : Nat} {tiles : List (List Byte)} {bytes : List Byte}
    (hk : tiles[k]? = some bytes) (hb : b < 16) :
    readTile (commitTiles (sheetWrites t tiles) s) (t + k) b = bytes.getD b 0 :=
  tileLookup_insertAll_of_mem s.tile _ (mem_sheetWrites hk hb) (sheetWrites_nodup t tiles)

theorem readTile_sheetWrites_outside (s : State) {t d b : Nat} {tiles : List (List Byte)} (hb : b < 16)
    (hd : ¬(t ≤ d ∧ d < t + tiles.length)) : readTile (commitTiles (sheetWrites t tiles) s) d b = readTile s d b := by
  refine tileLookup_insertAll_of_not_mem s.tile _ fun hmem => ?_
  have hbounds := sheetWrites_key_bounds hmem
  rw [tileIndex] at hbounds
  omega

/-! ### How SLICE ends (R131) -/

/-- SLICE's operands pass its tests of shape and range. -/
structure SliceOperandsGood (s : State) : Prop where
  width : s.width.toNat % 8 = 0
  height : s.height.toNat % 8 = 0
  palette : s.pal.toNat ≤ 7
  source : s.src.toNat + s.width.toNat * s.height.toNat ≤ s.cfg.pixN
  destination : s.dst.toNat + sheetCells s ≤ s.cfg.tileN

/-- What SLICE leaves of `s` when it completes. -/
def sliced (s : State) : State :=
  commitResult (sheetCells s)
    (commitTiles (sheetWrites s.dst.toNat ((List.range (sheetCells s)).map (sheetTile s))) s)

/-- How SLICE ends, its operands being good, when its cells pack to tiles or to a fault. -/
def sliceEnding (s : State) : Except Raise (List (List Byte)) → Ending
  | .error f => .raised s f
  | .ok tiles => .done (commitResult (sheetCells s) (commitTiles (sheetWrites s.dst.toNat tiles) s))

theorem sliceBody_width {s : State} (hw : s.width.toNat % 8 ≠ 0) :
    sliceBody s = .raised s ⟨.invalidSpritesheetDimensions, 0⟩ := if_pos hw

theorem sliceBody_height {s : State} (hw : s.width.toNat % 8 = 0) (hh : s.height.toNat % 8 ≠ 0) :
    sliceBody s = .raised s ⟨.invalidSpritesheetDimensions, 1⟩ := by
  rw [sliceBody, if_neg (not_not.2 hw), if_pos hh]

theorem sliceBody_palette {s : State} (hw : s.width.toNat % 8 = 0) (hh : s.height.toNat % 8 = 0)
    (hp : 7 < s.pal.toNat) : sliceBody s = .raised s (operandRange 0) := by
  rw [sliceBody, if_neg (not_not.2 hw), if_neg (not_not.2 hh), if_pos hp]

theorem sliceBody_source {s : State} (hw : s.width.toNat % 8 = 0) (hh : s.height.toNat % 8 = 0)
    (hp : s.pal.toNat ≤ 7) (hs : s.cfg.pixN < s.src.toNat + s.width.toNat * s.height.toNat) :
    sliceBody s = .raised s (operandRange 1) := by
  rw [sliceBody, if_neg (not_not.2 hw), if_neg (not_not.2 hh), if_neg hp.not_gt, if_pos hs]

theorem sliceBody_destination {s : State} (hw : s.width.toNat % 8 = 0) (hh : s.height.toNat % 8 = 0)
    (hp : s.pal.toNat ≤ 7) (hs : s.src.toNat + s.width.toNat * s.height.toNat ≤ s.cfg.pixN)
    (hd : s.cfg.tileN < s.dst.toNat + sheetCells s) : sliceBody s = .raised s (operandRange 2) := by
  rw [sliceBody, if_neg (not_not.2 hw), if_neg (not_not.2 hh), if_neg hp.not_gt, if_neg hs.not_gt, if_pos hd]

/-- With good operands SLICE ends as its cells pack. -/
theorem sliceBody_good {s : State} (h : SliceOperandsGood s) :
    sliceBody s = sliceEnding s (packCells s s.pal.toNat (List.range (sheetCells s))) := by
  obtain ⟨hw, hh, hp, hs, hd⟩ := h
  rw [sliceBody, if_neg (not_not.2 hw), if_neg (not_not.2 hh), if_neg hp.not_gt, if_neg hs.not_gt, if_neg hd.not_gt]
  rfl

theorem sliceBody_sliced {s : State} (h : SliceOperandsGood s) (hgood : ∀ k < sheetCells s, CellInPalette s k) :
    sliceBody s = .done (sliced s) := by
  rw [sliceBody_good h, packCells_ok fun k hk => hgood k (List.mem_range.1 hk)]
  rfl

/-- Where PACK's operands are good too, SLICE of an 8 x 8 sheet ends as PACK does. -/
theorem sliceBody_oneCell {s : State} (h : PackOperandsGood s) (hw : s.width.toNat = 8) (hh : s.height.toNat = 8) :
    sliceBody s = packBody s := by
  have hcells : sheetCells s = 1 := by rw [sheetCells, hw, hh]
  have hgood : SliceOperandsGood s := by
    obtain ⟨-, hp, hs, hd⟩ := h
    exact ⟨by rw [hw], by rw [hh], hp, by rwa [hw, hh], by rwa [hcells]⟩
  rw [sliceBody_good hgood, packBody_good h, hcells, ← sheetPixel_oneCell hw hh, ← sheetAddr_eq_sheetPixel]
  cases hcell : packCell s s.pal.toNat (sheetAddr s 0) with
  | error f => simp [packCells, hcell, sliceEnding, packEnding]
  | ok bytes => simp [packCells, hcell, sliceEnding, packEnding, sheetWrites, hcells]

theorem sliced_holdsIndex (s : State) {k r c : Nat} (hk : k < sheetCells s) (hr : r < 8) (hc : c < 8) :
    HoldsIndex (answeredOk (sliced s)) (s.dst.toNat + k) r c
      (findIndex s s.pal.toNat (readPix s (sheetPixel s k r c))) := by
  have htile : ((List.range (sheetCells s)).map (sheetTile s))[k]? = some (sheetTile s k) := by
    rw [List.getElem?_map, List.getElem?_range hk, Option.map_some]
  exact holdsIndex_of_tileBytes (fun b hb => by
    rw [readTile_answeredOk, sliced, readTile_commitResult, readTile_sheetWrites s htile hb, sheetTile]) hr hc

theorem readTile_sliced_outside (s : State) {d b : Nat} (hb : b < 16)
    (hd : ¬(s.dst.toNat ≤ d ∧ d < s.dst.toNat + sheetCells s)) :
    readTile (answeredOk (sliced s)) d b = readTile s d b := by
  rw [readTile_answeredOk, sliced, readTile_commitResult,
    readTile_sheetWrites_outside s hb (by rwa [List.length_map, List.length_range])]

end Sys2Proof.Machine
end

section
/-! PROOFS. The statements about SLICE (42_sheet_slice.md), from the layer above. -/

namespace Sys2Proof.Machine

/-- Settles O29: SLICE completes, and each tile it writes holds the index of each pixel of its cell. -/
theorem sliceWritesTheTiles : Obligations.SliceWritesTheTiles := by
  intro s hf hw hh hp hs hd hbuffer
  have hgood : ∀ k < sheetCells s, CellInPalette s k := fun k hk r hr c hc => by
    obtain ⟨y, hy, x, hx, hpixel⟩ := exists_bufferPixel hw hh hk hr hc
    exact hpixel ▸ hbuffer y hy x hx
  have hbody : sliceBody s = .done (sliced s) := sliceBody_sliced ⟨hw, hh, hp, hs, hd⟩ hgood
  refine ⟨answeredOk (sliced s), exec_done (i := .slice) hf hbody, answeredOk_commitTiles _ _ s,
    fun k hk r hr c hc i hi => ?_, fun d b hb hne => readTile_sliced_outside s hb hne⟩
  have hholds := sliced_holdsIndex s hk hr hc
  rw [findIndex_of_isIndex hi] at hholds
  exact ⟨hholds, unpackPixel_of_holdsIndex hi.1 hholds⟩

/-- Settles O30, test by test. -/
theorem sliceFaultsInOrder : Obligations.SliceFaultsInOrder := by
  intro s hf
  refine ⟨fun hw => ?_, fun hw hh => ?_, fun hw hh hp => ?_, fun hw hh hp hs => ?_, fun hw hh hp hs hd => ?_⟩
  · exact exec_raised (i := .slice) hf (sliceBody_width hw)
  · exact exec_raised (i := .slice) hf (sliceBody_height hw hh)
  · exact exec_raised (i := .slice) hf (sliceBody_palette hw hh hp)
  · exact exec_raised (i := .slice) hf (sliceBody_source hw hh hp hs)
  · exact exec_raised (i := .slice) hf (sliceBody_destination hw hh hp hs hd)

/-- Settles O31: the cells before cell k pack, and cell k ends with the fault of its first missing colour. -/
theorem sliceReportsFirstBadPixel : Obligations.SliceReportsFirstBadPixel := by
  intro s hf hw hh hp hs hd k hk r hr c hc hbad hbefore
  have hearlier : ∀ j ∈ List.range k, CellInPalette s j := fun j hj r' hr' c' hc' =>
    hbefore j r' hr' c' hc' (by have := List.mem_range.1 hj; omega)
  have hcell : packCell s s.pal.toNat (sheetAddr s k) = .error ⟨.colorNotInPalette, sheetPixel s k r c⟩ :=
    packCell_firstBad hr hc hbad fun r' hr' c' hc' hlt => hbefore k r' hr' c' hc' (by omega)
  obtain ⟨later, hrange⟩ := exists_range_eq_append (n := sheetCells s) hk
  have hbody : sliceBody s = .raised s ⟨.colorNotInPalette, sheetPixel s k r c⟩ := by
    rw [sliceBody_good ⟨hw, hh, hp, hs, hd⟩, hrange, packCells_firstBad later hearlier hcell]
    rfl
  exact exec_raised (i := .slice) hf hbody

/-- Settles O32: an empty sheet has no cells, so no pixel's colour is missing and no tile is written. -/
theorem emptySheetWritesNothing : Obligations.EmptySheetWritesNothing := by
  intro s hf hw hh hp hempty hs hd
  have hpixels : s.width.toNat * s.height.toNat = 0 := mul_eq_zero.2 hempty
  have hcells : sheetCells s = 0 := by
    rcases hempty with h | h <;> simp [sheetCells, h]
  have hbody : sliceBody s = .done (sliced s) :=
    sliceBody_sliced ⟨hw, hh, hp, by omega, by omega⟩ fun k hk => by omega
  have hsliced : sliced s = { s with result := 0 } := by
    rw [sliced, hcells]
    rfl
  rw [hsliced] at hbody
  exact exec_done (i := .slice) hf hbody

/-- Settles O33: a PACK that completes has good operands, and then SLICE of the one cell ends as PACK does. -/
theorem sliceOfOneCellIsPack : Obligations.SliceOfOneCellIsPack := by
  intro s t hf hl hw hh hexec ht
  obtain ⟨-, u, hbody, rfl⟩ := exec_completed hexec ht
  exact exec_done (i := .slice) hf ((sliceBody_oneCell (packOperandsGood_of_done hbody) hw hh).trans hbody)

end Sys2Proof.Machine
end

section
/-! SUPPORT. The layer for the statements about AUTOTILE (43_autotile.md): the class of a cell and its neighbours, the
autotile table, the count of the occupied cells, and what AUTOTILE leaves when it completes. -/

namespace Sys2Proof.Machine

/-! ### The class of a cell (R143) -/

theorem posClass_topRow {cf : Cfg} {t : Nat} (c : Nat) (ht : t = 0) : posClass cf t c = .topRow := if_pos ht

theorem posClass_botRow {cf : Cfg} {t : Nat} (c : Nat) (ht : t ≠ 0) (hlast : t + 1 = qh cf) :
    posClass cf t c = .botRow := by
  rw [posClass, if_neg ht, if_pos (by omega)]

theorem posClass_leftCol {cf : Cfg} {t c : Nat} (ht : t ≠ 0) (hlast : t + 1 ≠ qh cf) (hc : c = 0) :
    posClass cf t c = .leftCol := by
  rw [posClass, if_neg ht, if_neg (by omega), if_pos hc]

theorem posClass_rightCol {cf : Cfg} {t c : Nat} (ht : t ≠ 0) (hlast : t + 1 ≠ qh cf) (hc : c ≠ 0)
    (hright : c + 1 = qw cf) : posClass cf t c = .rightCol := by
  rw [posClass, if_neg ht, if_neg (by omega), if_neg hc, if_pos (by omega)]

theorem posClass_interior {cf : Cfg} {t c : Nat} (ht : t ≠ 0) (hlast : t + 1 ≠ qh cf) (hc : c ≠ 0)
    (hright : c + 1 ≠ qw cf) : posClass cf t c = .interior := by
  rw [posClass, if_neg ht, if_neg (by omega), if_neg hc, if_neg (by omega)]

/-! ### The neighbours of a cell (R142, R144) -/

/-- The bit of a place (t, c), which is the cell (row, col) where it lies inside the quadrant. -/
theorem occ_toNat (s : State) (q : Fin 4) {inside : Prop} [Decidable inside] {t c : Int} {row col : Nat}
    (hin : inside → t = row ∧ c = col ∧ row < qh s.cfg.toCfg ∧ col < qw s.cfg.toCfg)
    (hout : ¬inside → ¬(0 ≤ t ∧ t < qh s.cfg.toCfg ∧ 0 ≤ c ∧ c < qw s.cfg.toCfg)) :
    (occ s q t c).toNat =
      if decide inside = true ∧ readChunk s q (row * qw s.cfg.toCfg + col) = 0x31 then 1 else 0 := by
  by_cases h : inside
  · obtain ⟨rfl, rfl, hrow, hcol⟩ := hin h
    simp [occ_inside s q hrow hcol, h, Bool.toNat, Bool.cond_decide]
  · simp [occ_outside s q (hout h), h]

theorem neighbourMask_lt (s : State) (q : Fin 4) (t c : Nat) : neighbourMask s q t c < 16 := by
  have hup := Bool.toNat_le (occ s q (t - 1 : Int) c)
  have hdown := Bool.toNat_le (occ s q (t + 1 : Int) c)
  have hleft := Bool.toNat_le (occ s q t (c - 1 : Int))
  have hright := Bool.toNat_le (occ s q t (c + 1 : Int))
  rw [neighbourMask]
  omega

/-- Occupancy in a quadrant depends on the configuration and on the quadrant's characters alone (R142). -/
theorem occ_congr {s s' : State} {q : Fin 4} (hcfg : s'.cfg = s.cfg)
    (hchunk : ∀ i < qw s.cfg.toCfg * qh s.cfg.toCfg, readChunk s' q i = readChunk s q i) : occ s' q = occ s q := by
  funext t c
  by_cases h : 0 ≤ t ∧ t < qh s.cfg.toCfg ∧ 0 ≤ c ∧ c < qw s.cfg.toCfg
  · obtain ⟨ht, htlt, hc, hclt⟩ := h
    lift t to Nat using ht
    lift c to Nat using hc
    have hrow : t < qh s.cfg.toCfg := by omega
    have hcol : c < qw s.cfg.toCfg := by omega
    have hplace := grid_lt hrow hcol
    rw [Nat.mul_comm (qh _)] at hplace
    rw [occ_inside s q hrow hcol, ← hchunk _ hplace, ← hcfg]
    exact occ_inside s' q (hcfg ▸ hrow) (hcfg ▸ hcol)
  · rw [occ_outside s q h, occ_outside s' q (hcfg ▸ h)]

/-- So does the value of each of its cells (R151). -/
theorem cellValue_congr {s s' : State} {q : Fin 4} (hcfg : s'.cfg = s.cfg)
    (hchunk : ∀ i < qw s.cfg.toCfg * qh s.cfg.toCfg, readChunk s' q i = readChunk s q i) :
    cellValue s' q = cellValue s q := by
  funext t c
  simp only [cellValue, cellVariant, neighbourMask, hcfg, occ_congr hcfg hchunk]

/-! ### The autotile table (R150) -/

theorem mem_allClasses (k : PosClass) : k ∈ allClasses := by
  cases k <;> decide

/-- A legal configuration's table has at each entry a variant that the entry's tag allows. -/
theorem lutAllows_of_legal (c : LegalCfg) (k : PosClass) {m : Nat} (hm : m < 16) :
    lutAllows k m (lutEntry c.lut k m) = true := by
  have hrows := List.all_eq_true.1 (cfg_facts c).lut k (mem_allClasses k)
  rw [Bool.and_eq_true, List.all_eq_true] at hrows
  exact hrows.2 m (List.mem_range.2 hm)

/-- Without an up neighbour no entry of the top row is tagged `u`. -/
theorem lutTag_topRow :
    ∀ d l r : Bool, lutTag .topRow (false.toNat + 2 * d.toNat + 4 * l.toNat + 8 * r.toNat) ≠ .u := by decide

/-- Without a down neighbour no entry of the bottom row is. -/
theorem lutTag_botRow :
    ∀ u l r : Bool, lutTag .botRow (u.toNat + 2 * false.toNat + 4 * l.toNat + 8 * r.toNat) ≠ .u := by decide

/-- Without a left neighbour no entry of the left column is. -/
theorem lutTag_leftCol :
    ∀ u d r : Bool, lutTag .leftCol (u.toNat + 2 * d.toNat + 4 * false.toNat + 8 * r.toNat) ≠ .u := by decide

/-- Without a right neighbour no entry of the right column is. -/
theorem lutTag_rightCol :
    ∀ u d l : Bool, lutTag .rightCol (u.toNat + 2 * d.toNat + 4 * l.toNat + 8 * false.toNat) ≠ .u := by decide

/-- No entry of the interior is. -/
theorem lutTag_interior : ∀ m < 16, lutTag .interior m ≠ .u := by decide

/-! ### The number of occupied cells (R152) -/

theorem occupiedCount_le (s : State) (q : Fin 4) : occupiedCount s q ≤ 1024 :=
  calc occupiedCount s q ≤ (quadCells s.cfg.toCfg).length := List.countP_le_length
    _ = qw s.cfg.toCfg * qh s.cfg.toCfg := by simp [quadCells, Nat.mul_comm]
    _ ≤ 1024 := (cfg_facts s.cfg).quadrant

theorem occupiedCount_eq_card (s : State) (q : Fin 4) :
    occupiedCount s q =
      (Finset.univ.filter fun x : Fin (qh s.cfg.toCfg) × Fin (qw s.cfg.toCfg) =>
        readChunk s q (x.1.val * qw s.cfg.toCfg + x.2.val) = 0x31).card := by
  rw [occupiedCount, List.countP_eq_length_filter, ← List.toFinset_card_of_nodup ((quadCells_nodup _).filter _)]
  symm
  refine Finset.card_nbij (fun x => (x.1.val, x.2.val)) (fun x hx => ?_) (fun x _ y _ h => ?_) (fun x hx => ?_)
  · rw [List.coe_toFinset, Set.mem_ofPred_eq, List.mem_filter, mem_quadCells, occ_inside s q x.1.isLt x.2.isLt]
    exact ⟨⟨x.1.isLt, x.2.isLt⟩, decide_eq_true (Finset.mem_filter.1 hx).2⟩
  · obtain ⟨hrow, hcol⟩ := Prod.mk.inj h
    exact Prod.ext (Fin.ext hrow) (Fin.ext hcol)
  · rw [List.coe_toFinset, Set.mem_ofPred_eq, List.mem_filter, mem_quadCells] at hx
    obtain ⟨⟨hrow, hcol⟩, hocc⟩ := hx
    rw [occ_inside s q hrow hcol, decide_eq_true_eq] at hocc
    exact ⟨(⟨x.1, hrow⟩, ⟨x.2, hcol⟩), by simpa using hocc, rfl⟩

/-- The occupied cells of the four quadrants, counted together. -/
theorem occupiedCount_sum (s : State) :
    (slots.map (occupiedCount s)).sum =
      (Finset.univ.filter fun x : Fin 4 × Fin (qh s.cfg.toCfg) × Fin (qw s.cfg.toCfg) =>
        readChunk s x.1 (x.2.1.val * qw s.cfg.toCfg + x.2.2.val) = 0x31).card := by
  have hquadrants : (slots.map (occupiedCount s)).sum = ∑ q, occupiedCount s q := by
    rw [Fin.sum_univ_four]
    simp [slots, Nat.add_assoc]
  simp only [hquadrants, occupiedCount_eq_card, Finset.card_filter, Fintype.sum_prod_type]

/-- RESULT holds the count whole. -/
theorem occupiedCount_sum_lt (s : State) : (slots.map (occupiedCount s)).sum < 2 ^ 32 := by
  have hsum := List.sum_le_card_nsmul (slots.map (occupiedCount s)) 1024 fun n hn => by
    obtain ⟨q, -, rfl⟩ := List.mem_map.1 hn
    exact occupiedCount_le s q
  have hslots : (slots.map (occupiedCount s)).length = 4 := by rw [List.length_map]; rfl
  rw [hslots, smul_eq_mul] at hsum
  omega

/-! ### How AUTOTILE ends (R152) -/

/-- What AUTOTILE leaves of `s` when it completes. -/
def autotiled (s : State) : State :=
  commitResult (slots.map (occupiedCount s)).sum (commitBg (memInsertAll s.bg (autotileWrites s)) s)

theorem checkSlots_of_good {s : State} (h : ∀ q, SlotGood s q) : checkSlots s slots = none := by
  refine checkSlots_none.2 fun q _ => ?_
  rw [slotIdentifiers.1]
  exact h q

/-- AUTOTILE completes when its tests pass. -/
theorem exec_autotiled {s : State} (hf : s.fault = false) (h : checkSlots s slots = none) :
    exec .autotile s = .next (answeredOk (autotiled s)) := by
  have hbody : bodyOf .autotile s = .done (autotiled s) := by
    rw [bodyOf, autotileBody, h]
    rfl
  exact exec_done hf hbody

/-- An AUTOTILE that completes has passed its tests. -/
theorem eq_autotiled_of_completed {s t : State} (hexec : exec .autotile s = .next t) (ht : t.fault = false) :
    checkSlots s slots = none ∧ t = answeredOk (autotiled s) := by
  obtain ⟨-, u, hbody, rfl⟩ := exec_completed hexec ht
  cases done_cases hbody with
  | autotile hs => exact ⟨hs, rfl⟩

theorem readBg_autotiled (s : State) (q : Fin 4) {r c : Nat} (hr : r < qh s.cfg.toCfg) (hc : c < qw s.cfg.toCfg) :
    readBg (answeredOk (autotiled s)) (mapCell s.cfg.toCfg q r c) = cellValue s q r c := by
  rw [← cellIndex_eq_mapCell]
  exact bgLookup_autotileWrites s s.bg hr hc

theorem readBg_autotiled_outside (s : State) {a : Nat} (ha : s.cfg.bgW * s.cfg.bgH ≤ a) :
    readBg (answeredOk (autotiled s)) a = readBg s a := by
  have hnot : a ∉ (autotileWrites s).map Prod.fst := fun hmem => by
    obtain ⟨e, he, rfl⟩ := List.mem_map.1 hmem
    exact (autotileWrites_within s e he).not_ge ha
  exact congrArg (Option.getD · (Config.freeBg s.draw a)) (memLookup_insertAll_of_not_mem s.bg _ hnot)

/-! ### What AUTOTILE and ILLUM write, and AUTOTILE does not read (R152, R170) -/

/-- The state `s` with another RESULT and other contents of BG, after a write that answered OK. -/
def withMap (r : Word) (b : Memory 16) (s : State) : State :=
  { s with result := r, bg := b, answer := some (.write .ok) }

theorem answeredOk_autotiled (s : State) :
    answeredOk (autotiled s) = withMap (autotiled s).result (autotiled s).bg s := rfl

theorem eq_withMap_of_illum {s t : State} (hexec : exec .illum s = .next t) (ht : t.fault = false) :
    t = withMap t.result t.bg s := by
  obtain ⟨-, u, hbody, rfl⟩ := exec_completed hexec ht
  cases done_cases hbody with
  | illum => rfl

theorem withMap_withMap (r r' : Word) (b b' : Memory 16) (s : State) :
    withMap r' b' (withMap r b s) = withMap r' b' s := rfl

theorem checkSlots_withMap (r : Word) (b : Memory 16) (s : State) :
    checkSlots (withMap r b s) slots = checkSlots s slots := rfl

theorem cellValue_withMap (r : Word) (b : Memory 16) (s : State) : cellValue (withMap r b s) = cellValue s := rfl

theorem autotiled_result_withMap (r : Word) (b : Memory 16) (s : State) :
    (autotiled (withMap r b s)).result = (autotiled s).result := rfl

end Sys2Proof.Machine
end

section
/-! PROOFS. The statements about AUTOTILE (43_autotile.md), from the layer above. -/

namespace Sys2Proof.Machine

/-- Settles O37: the class by the place, the mask neighbour by neighbour. -/
theorem classAndMaskFollowRules : Obligations.ClassAndMaskFollowRules := by
  intro s q t c ht hc
  refine ⟨posClass_topRow c, posClass_botRow c, posClass_leftCol, posClass_rightCol, posClass_interior, ?_⟩
  rw [neighbourMask,
    occ_toNat s q (inside := t ≠ 0) (row := t - 1) (col := c) (by omega) (by omega),
    occ_toNat s q (inside := t + 1 < qh s.cfg.toCfg) (row := t + 1) (col := c) (by omega) (by omega),
    occ_toNat s q (inside := c ≠ 0) (row := t) (col := c - 1) (by omega) (by omega),
    occ_toNat s q (inside := c + 1 < qw s.cfg.toCfg) (row := t) (col := c + 1) (by omega) (by omega)]

/-- Settles O39: a legal table has at each entry what the tag allows, and `s` allows the table's own variant alone. -/
theorem settledEntriesAreFixed : Obligations.SettledEntriesAreFixed := by
  intro c k m hm htag
  have hallows := lutAllows_of_legal c k hm
  rw [lutAllows, htag] at hallows
  exact beq_iff_eq.1 hallows

/-- Settles O40: a cell on an edge of its quadrant has no neighbour across that edge. -/
theorem unreachableEntriesAreNotRead : Obligations.UnreachableEntriesAreNotRead := by
  intro s q t c ht hc
  refine ⟨neighbourMask_lt s q t c, ?_⟩
  by_cases htop : t = 0
  · rw [posClass_topRow c htop, neighbourMask, occ_outside s q (t := t - 1) (by omega)]
    exact lutTag_topRow _ _ _
  by_cases hbot : t + 1 = qh s.cfg.toCfg
  · rw [posClass_botRow c htop hbot, neighbourMask, occ_outside s q (t := t + 1) (by omega)]
    exact lutTag_botRow _ _ _
  by_cases hleft : c = 0
  · rw [posClass_leftCol htop hbot hleft, neighbourMask, occ_outside s q (c := c - 1) (by omega)]
    exact lutTag_leftCol _ _ _
  by_cases hright : c + 1 = qw s.cfg.toCfg
  · rw [posClass_rightCol htop hbot hleft hright, neighbourMask, occ_outside s q (c := c + 1) (by omega)]
    exact lutTag_rightCol _ _ _
  · rw [posClass_interior htop hbot hleft hright]
    exact lutTag_interior _ (neighbourMask_lt s q t c)

/-- Settles O41: AUTOTILE completes, counts the occupied cells and gives each cell its value. -/
theorem autotileBuildsTheMap : Obligations.AutotileBuildsTheMap := by
  intro s hf hgood
  refine ⟨answeredOk (autotiled s), exec_autotiled hf (checkSlots_of_good hgood), rfl, ?_, fun q r c hr hc => ?_⟩
  · rw [← occupiedCount_sum]
    exact Nat.mod_eq_of_lt (occupiedCount_sum_lt s)
  · rw [readBg_autotiled s q hr hc, cellValue, occ_inside s q hr hc]
    simp only [decide_eq_true_eq]
    split <;> exact bgCell_toNat _ _

/-- Settles O42: refused and faulted it writes nothing, and completed it writes cells of the map. -/
theorem autotileStaysInTheMap : Obligations.AutotileStaysInTheMap := by
  intro s t hexec a ha
  rw [exec_eq] at hexec
  cases hexec
  rcases runCommand_cases (encode .autotile) (bodyOf .autotile) s with
    ⟨-, he⟩ | ⟨-, u, hb, he⟩ | ⟨-, u, f, hb, he⟩
  · rw [he]
    rfl
  · rw [he]
    cases done_cases hb with
    | autotile => exact readBg_autotiled_outside s ha
  · rw [he, body_raised hb]
    rfl

/-- Settles O44: both leave in the cell its value, and the value depends on the quadrant's own chunk. -/
theorem quadrantsDoNotSeeEachOther : Obligations.QuadrantsDoNotSeeEachOther := by
  intro s s' t t' q hf hf' hgood hgood' hcfg hchunk hexec hexec' r c hr hc
  rw [exec_autotiled hf (checkSlots_of_good hgood)] at hexec
  rw [exec_autotiled hf' (checkSlots_of_good hgood')] at hexec'
  cases hexec
  cases hexec'
  have hcell' := readBg_autotiled s' q (hcfg ▸ hr) (hcfg ▸ hc)
  rw [hcfg] at hcell'
  rw [hcell', readBg_autotiled s q hr hc, cellValue_congr hcfg hchunk]

/-- Settles O45: the state before the second AUTOTILE has the inputs of the state before the first. -/
theorem autotileIsIdempotent : Obligations.AutotileIsIdempotent := by
  intro s t u hf hexec ht hu huf
  obtain ⟨hslots, rfl⟩ := eq_autotiled_of_completed hexec ht
  obtain ⟨r, b, rfl⟩ : ∃ r b, u = withMap r b s := by
    rcases hu with rfl | hlit
    · exact ⟨_, _, answeredOk_autotiled s⟩
    · have hu := eq_withMap_of_illum hlit huf
      rw [answeredOk_autotiled, withMap_withMap] at hu
      exact ⟨_, _, hu⟩
  have hslots' : checkSlots (withMap r b s) slots = none := (checkSlots_withMap r b s).trans hslots
  refine ⟨_, exec_autotiled huf hslots', huf, autotiled_result_withMap r b s, fun a ha => ?_⟩
  obtain ⟨q, row, col, hrow, hcol, rfl⟩ := exists_mapCell s.cfg ha
  rw [readBg_autotiled s q hrow hcol, ← cellValue_withMap r b s]
  exact readBg_autotiled (withMap r b s) q hrow hcol

/-- Settles O46: the mask of an isolated cell is 0, and entry 0 of each class is the variant of the place. -/
theorem isolatedCellIsPositional : Obligations.IsolatedCellIsPositional := by
  intro s q t c hlut ht hc hup hdown hleft hright
  have hmask : neighbourMask s q t c = 0 := by
    rw [neighbourMask, hup, hdown, hleft, hright]
    rfl
  rw [cellVariant, hlut, hmask, posClass]
  split_ifs <;> rfl

/-- Settles O38, for each of the 16 combinations. -/
theorem tableFollowsClassRules : Obligations.TableFollowsClassRules := by
  unfold Obligations.TableFollowsClassRules
  decide

end Sys2Proof.Machine
end

section
/-! SUPPORT. The layer for the statements about ILLUM (44_illuminate.md): the occupied cells of a quadrant as elements of the
map, how ILLUM ends, and what every element of BG reads as when it has completed. -/

namespace Sys2Proof.Machine

/-! ### The cells ILLUM lights (R142, R170) -/

/-- An element of BG is lit when it is the place of a character '1' of the quadrant's chunk. -/
theorem mem_litCells_iff_mapCell {s : State} {q : Fin 4} {a : Nat} :
    a ∈ litCells s q ↔ ∃ r c, r < qh s.cfg.toCfg ∧ c < qw s.cfg.toCfg
      ∧ readChunk s q (r * qw s.cfg.toCfg + c) = 0x31 ∧ a = mapCell s.cfg.toCfg q r c := by
  rw [mem_litCells]
  refine exists_congr fun r => exists_congr fun c => and_congr_right fun hr => and_congr_right fun hc => ?_
  rw [occ_inside s q hr hc, decide_eq_true_eq, cellIndex_eq_mapCell, eq_comm (a := a)]

theorem litCells_length (s : State) (q : Fin 4) : (litCells s q).length = occupiedCount s q := by
  rw [litCells, List.length_map, occupiedCount, List.countP_eq_length_filter]

/-! ### How ILLUM ends (R170, R199) -/

/-- What ILLUM of quadrant q leaves of `s` when it completes. -/
def lit (s : State) (q : Fin 4) : State :=
  commitResult (litCells s q).length (commitBg ((litCells s q).foldl (lightCell s) s.bg) s)

theorem illumBody_lit {s : State} {q : Fin 4} (hq : s.quad.toNat = q.val) : illumBody s = .done (lit s q) := by
  rw [illumBody, if_neg (by omega), hq, Fin.ofNat_val_eq_self]
  rfl

theorem illumBody_quad {s : State} (hq : 3 < s.quad.toNat) : illumBody s = .raised s (operandRange 3) :=
  if_pos hq

/-- ILLUM completes when QUAD names a quadrant. -/
theorem exec_lit {s : State} {q : Fin 4} (hf : s.fault = false) (hq : s.quad.toNat = q.val) :
    exec .illum s = .next (answeredOk (lit s q)) :=
  exec_done (i := .illum) hf (illumBody_lit hq)

/-- An ILLUM that completes found a quadrant named by QUAD. -/
theorem eq_lit_of_completed {s t : State} (hexec : exec .illum s = .next t) (ht : t.fault = false) :
    ∃ q : Fin 4, s.quad.toNat = q.val ∧ t = answeredOk (lit s q) := by
  obtain ⟨-, u, hbody, rfl⟩ := exec_completed hexec ht
  cases done_cases hbody with
  | illum q hq => exact ⟨q, hq, rfl⟩

@[simp] theorem answeredOk_lit_fault (s : State) (q : Fin 4) : (answeredOk (lit s q)).fault = s.fault := rfl

/-! ### RESULT and BG after ILLUM (R170) -/

@[simp] theorem lit_result (s : State) (q : Fin 4) : (lit s q).result = truncNat 32 (litCells s q).length := rfl

/-- RESULT holds the number of lit cells whole. -/
theorem lit_result_toNat (s : State) (q : Fin 4) : (lit s q).result.toNat = occupiedCount s q := by
  have hle := occupiedCount_le s q
  rw [lit_result, litCells_length, truncNat, BitVec.toNat_ofNat]
  omega

theorem readBg_lit (s : State) (q : Fin 4) (a : Nat) :
    readBg (answeredOk (lit s q)) a =
      if a ∈ litCells s q then bgCell s.cfg.litPal ((readBg s a).setWidth 8) else readBg s a :=
  bgLookup_litCells s q s.bg a

/-- ILLUM does not write what decides the cells it lights. -/
theorem litCells_lit (s : State) (q : Fin 4) : litCells (answeredOk (lit s q)) q = litCells s q := rfl

/-- Lighting a quadrant again counts the same cells. -/
theorem lit_lit_result (s : State) (q : Fin 4) : (lit (answeredOk (lit s q)) q).result = (lit s q).result := by
  rw [lit_result, litCells_lit, lit_result]

/-- Lighting a quadrant again leaves every element as it was: a lit cell keeps its tile and has the lit palette already. -/
theorem readBg_lit_lit (s : State) (q : Fin 4) (a : Nat) :
    readBg (answeredOk (lit (answeredOk (lit s q)) q)) a = readBg (answeredOk (lit s q)) a := by
  rw [readBg_lit, litCells_lit, readBg_lit s]
  split
  · rw [bgCell_tile]
    rfl
  · rfl

end Sys2Proof.Machine
end

section
/-! PROOFS. The statements about ILLUM (44_illuminate.md), from the layer above. -/

namespace Sys2Proof.Machine

/-- Settles O47: ILLUM of a quadrant counts the occupied cells and lights them, and any other QUAD is out of range. -/
theorem illumLightsTheQuadrant : Obligations.IllumLightsTheQuadrant := by
  refine fun s hf => ⟨fun q hq => ?_, fun hq => exec_raised (i := .illum) hf (illumBody_quad hq)⟩
  refine ⟨answeredOk (lit s q), exec_lit hf hq, rfl, ?_, fun r c hr hc ho => ?_, fun a hother => ?_⟩
  · rw [← occupiedCount_eq_card]
    exact lit_result_toNat s q
  · rw [readBg_lit, if_pos (mem_litCells_iff_mapCell.2 ⟨r, c, hr, hc, ho, rfl⟩), bgCell_toNat, BitVec.toNat_setWidth]
  · have hnot : a ∉ litCells s q := fun hmem => by
      obtain ⟨r, c, hr, hc, ho, ha⟩ := mem_litCells_iff_mapCell.1 hmem
      exact hother r c hr hc ho ha
    rw [readBg_lit, if_neg hnot]

/-- Settles O48: the second ILLUM lights the same cells, which are lit already. -/
theorem illumIsIdempotent : Obligations.IllumIsIdempotent := by
  intro s t hexec ht
  obtain ⟨q, hq, rfl⟩ := eq_lit_of_completed hexec ht
  exact ⟨_, exec_lit ht hq, lit_lit_result s q, (answeredOk_lit_fault _ q).trans ht, readBg_lit_lit s q⟩

end Sys2Proof.Machine
end

section
/-! PROOFS. The statement about NOP (45_system.md), from the frame of a command (R98). -/

namespace Sys2Proof.Machine

/-- In the FAULTED state every command is refused (R203). -/
theorem exec_faulted (i : Instr) {s : State} (hf : s.fault = true) : exec i s = .next (answeredError s) := by
  rw [exec_eq, runCommand_faulted _ _ hf]
  rfl

/-- Settles O23: the pseudocode of NOP ends in the state it began in, and the frame refuses it while FAULT is 1. -/
theorem nopChangesNothing : Obligations.NopChangesNothing :=
  fun _ => ⟨fun hf => exec_done (i := .nop) hf rfl, exec_faulted .nop⟩

end Sys2Proof.Machine
end

section
/-! SUPPORT. The layer for the statements about the exceptions (60_exceptions.md): what a command that faults has recorded,
the codes as numbers, the record of an illegal word, the faults of SLICE on a sheet of whole cells, and the lowest bad slot
of AUTOTILE. -/

namespace Sys2Proof.Machine

/-! ### The record of a command that faults (R191, R200) -/

/-- A command after which FAULT is 1, and was 0 before, raised a fault, and its record is that fault's. -/
theorem exec_raised_of_fault {i : Instr} {s t : State} (hf : s.fault = false) (hexec : exec i s = .next t)
    (ht : t.fault = true) :
    ∃ u f, bodyOf i s = .raised u f
      ∧ t = recorded u (truncNat 8 (faultNumber f.code)) (truncNat 32 f.info) (encode i) := by
  cases hbody : bodyOf i s with
  | done u =>
    have hu : u.fault = false := (done_cases hbody).fault.trans hf
    rw [exec_done hf hbody] at hexec
    cases hexec
    exact absurd (hu.symm.trans ht) Bool.false_ne_true
  | raised u f =>
    rw [exec_raised hf hbody] at hexec
    cases hexec
    exact ⟨u, f, rfl, rfl⟩

/-- ERR tells the faults apart: no two have one code (R191). -/
theorem truncNat_faultNumber_inj {c d : FaultCode} :
    truncNat 8 (faultNumber c) = truncNat 8 (faultNumber d) ↔ c = d := by
  cases c <;> cases d <;> decide

/-- A command that ends with the code of `c` in ERR raised `c`. -/
theorem raised_of_err {i : Instr} {s t : State} {c : FaultCode} (hf : s.fault = false) (hexec : exec i s = .next t)
    (ht : t.fault = true) (herr : t.err = truncNat 8 (faultNumber c)) :
    ∃ u f, bodyOf i s = .raised u f ∧ f.code = c := by
  obtain ⟨u, f, hbody, rfl⟩ := exec_raised_of_fault hf hexec ht
  exact ⟨u, f, hbody, truncNat_faultNumber_inj.1 herr⟩

/-- With FAULT 0 an illegal word is recorded twice, as the info and as the command word (R198). -/
theorem illegalCommand_recorded {s : State} (hf : s.fault = false) (v : Word) :
    illegalCommand v s = recorded s 7 v v := by
  rw [illegalCommand, runCommand_raised hf rfl, faultEntry, truncNat_toNat]
  rfl

/-! ### The faults of SLICE on a sheet of whole cells (R131, R194) -/

/-- With WIDTH and HEIGHT multiples of 8, SLICE finds an operand out of range or a colour missing, or it completes. -/
theorem sliceBody_code_of_wholeCells {s t : State} {f : Raise} (hw : s.width.toNat % 8 = 0)
    (hh : s.height.toNat % 8 = 0) (h : sliceBody s = .raised t f) :
    f.code = .operandRange ∨ f.code = .colorNotInPalette := by
  rw [sliceBody, if_neg (not_not.2 hw), if_neg (not_not.2 hh)] at h
  split at h
  · cases h; exact .inl rfl
  split at h
  · cases h; exact .inl rfl
  split at h
  · cases h; exact .inl rfl
  split at h
  · rename_i g hg
    cases h
    obtain ⟨k, -, r, -, c, -, rfl⟩ := packCells_error hg
    exact .inr rfl
  · cases h

/-! ### The lowest bad slot of AUTOTILE (R152, R195, R196) -/

/-- The slots in order are those below q, q, and those after it. -/
theorem slots_eq_append (q : Fin 4) : slots = slots.take q.val ++ q :: slots.drop (q.val + 1) := by
  revert q
  decide

theorem lt_of_mem_take_slots {p q : Fin 4} : p ∈ slots.take q.val → p < q := by
  revert p q
  decide

/-- When every lower slot is good, the tests begin at slot q. -/
theorem checkSlots_of_lowerGood {s : State} {q : Fin 4} (h : ∀ p < q, SlotGood s p) :
    checkSlots s slots = checkSlots s (q :: slots.drop (q.val + 1)) := by
  have hlower : checkSlots s (slots.take q.val) = none := checkSlots_none.2 fun p hp => by
    rw [slotIdentifiers.1]
    exact h p (lt_of_mem_take_slots hp)
  exact (congrArg (checkSlots s) (slots_eq_append q)).trans (checkSlots_append hlower)

theorem checkSlots_badMagic {s : State} {q : Fin 4} (qs : List (Fin 4)) (h : slotGet s.chunkMagic q ≠ slotWord q) :
    checkSlots s (q :: qs) = some ⟨.chunkMagicMismatch, q.val⟩ := by
  rw [checkSlots, slotIdentifiers.1, if_pos h]

theorem checkSlots_badLength {s : State} {q : Fin 4} (qs : List (Fin 4)) (h : slotGet s.chunkMagic q = slotWord q)
    (hlen : (slotGet s.chunkLen q).toNat ≠ qw s.cfg.toCfg * qh s.cfg.toCfg) :
    checkSlots s (q :: qs) = some ⟨.chunkSizeMismatch, q.val⟩ := by
  rw [checkSlots, slotIdentifiers.1, if_neg (not_not.2 h), if_pos hlen]

/-- AUTOTILE raises the fault of its tests and writes nothing. -/
theorem autotileBody_raised {s : State} {f : Raise} (h : checkSlots s slots = some f) :
    autotileBody s = .raised s f := by
  rw [autotileBody, h]

end Sys2Proof.Machine
end

section
/-! PROOFS. The statements about the exceptions (60_exceptions.md), from the layer above. -/

namespace Sys2Proof.Machine

/-- Settles O20: what a command leaves when it raises a fault is `s` but for FIND's sentinel, and ERR 1 is the code of a
missing colour alone. -/
theorem faultsArePrecise : Obligations.FaultsArePrecise := by
  intro i s hf
  refine ⟨_, exec_eq i s, fun ht => ?_⟩
  obtain ⟨u, f, hbody, hrecorded⟩ := exec_raised_of_fault hf (exec_eq i s) ht
  have hcode : truncNat 8 (faultNumber f.code) = 1 ↔ f.code = .colorNotInPalette :=
    truncNat_faultNumber_inj (d := .colorNotInPalette)
  rw [hrecorded, body_raised hbody]
  simp only [recorded, hcode]

/-- Settles O28: PACK tests LEN first, and of all faults only this one has code 2. -/
theorem invalidTileSizeOnlyByPack : Obligations.InvalidTileSizeOnlyByPack := by
  refine fun s hf => ⟨fun hl => ?_, fun i t hexec ht herr => ?_⟩
  · exact ⟨_, exec_raised (i := .pack) hf (packBody_size hl), rfl, rfl, truncNat_toNat s.len⟩
  · obtain ⟨u, f, hbody, hcode⟩ := raised_of_err (c := .invalidTileSize) hf hexec ht herr
    cases raised_cases hbody with
    | packSize hl => exact ⟨rfl, hl⟩
    | _ => cases hcode

/-- Settles O34: SLICE tests WIDTH, then HEIGHT; of all commands only SLICE has the fault with code 3, and not on a sheet
of whole cells. -/
theorem sheetDimensionsFaultExactly : Obligations.SheetDimensionsFaultExactly := by
  refine fun s hf => ⟨fun hw => ?_, fun hw hh => ?_, fun i t hexec ht herr => ?_⟩
  · exact ⟨_, exec_raised (i := .slice) hf (sliceBody_width hw), rfl, rfl, rfl⟩
  · exact ⟨_, exec_raised (i := .slice) hf (sliceBody_height hw hh), rfl, rfl, rfl⟩
  · obtain ⟨u, f, hbody, hcode⟩ := raised_of_err (c := .invalidSpritesheetDimensions) hf hexec ht herr
    cases raised_cases hbody with
    | sliceShape n =>
      refine ⟨rfl, or_iff_not_imp_left.2 fun hw hh => ?_⟩
      rcases sliceBody_code_of_wholeCells (not_not.1 hw) hh hbody with hrange | hcolor
      · cases hrange
      · cases hcolor
    | _ => cases hcode

/-- Settles O43: the tests begin at slot q, and there the identifier comes before the length. -/
theorem autotileReportsFirstBadSlot : Obligations.AutotileReportsFirstBadSlot := by
  refine fun s q hf hlower => ⟨fun hmagic => ?_, fun hmagic hlen => ?_⟩
  · have hcheck := (checkSlots_of_lowerGood hlower).trans (checkSlots_badMagic _ hmagic)
    exact exec_raised (i := .autotile) hf (autotileBody_raised hcheck)
  · have hcheck := (checkSlots_of_lowerGood hlower).trans (checkSlots_badLength _ hmagic hlen)
    exact exec_raised (i := .autotile) hf (autotileBody_raised hcheck)

/-- Settles O5: a word with such fields is above the last opcode, so it decodes as illegal. -/
theorem stepIllegalWordFaults : Obligations.StepIllegalWordFaults := by
  intro s v rest hx hf hfields
  obtain ⟨-, hdecode, habove⟩ := decoderIsExact v
  rw [step_cons hx, transact_cmd, commandWrite, hdecode (habove.2 hfields)]
  exact congrArg _ (illegalCommand_recorded (s := { s with host := rest }) hf v)

/-- Settles O6: the frame of every CMD write tests FAULT before anything else. -/
theorem faultedRefusesCommandWrites : Obligations.FaultedRefusesCommandWrites :=
  fun _ _ _ hx hf => step_faulted_cmd hf hx

/-- Settles O13: with no transaction to perform the step answers the state it began in. -/
theorem idleStepChangesNothing : Obligations.IdleStepChangesNothing := by
  intro s hidle
  rw [step, hidle]

end Sys2Proof.Machine
end

section
/-! SUPPORT. The layer for the statements about resets and hazards (70_reset_and_hazards.md): what every transaction keeps of
the model's own fields, and the one state both causes of a reset leave. -/

namespace Sys2Proof.Machine

/-! ### What every transaction keeps (R7; log 1, log 4) -/

/-- `t` has the configuration and the queue of `s`. -/
structure SameSetup (s t : State) : Prop where
  cfg : t.cfg = s.cfg
  host : t.host = s.host

theorem writeControl_sameSetup (v : Word) (s : State) : SameSetup s (writeControl v s) := by
  unfold writeControl
  split
  · exact ⟨rfl, rfl⟩
  · exact ⟨rfl, rfl⟩

theorem illegalCommand_sameSetup (v : Word) (s : State) : SameSetup s (illegalCommand v s) := by
  rcases illegalCommand_cases v s with ⟨-, he⟩ | ⟨-, he⟩
  · rw [he]; exact ⟨rfl, rfl⟩
  · rw [he]; exact ⟨rfl, rfl⟩

/-- Refused, completed or faulted, a command writes what R31 lists at most. -/
theorem runCommand_sameSetup (i : Instr) (s : State) : SameSetup s (runCommand (encode i) (bodyOf i) s) := by
  obtain ⟨t, hexec, ht⟩ := commandsKeepTheirInputs i s
  rw [exec_eq] at hexec
  cases hexec
  rw [ht]
  exact ⟨rfl, rfl⟩

theorem TransactCase.sameSetup {s t : State} {x : Transaction} (h : TransactCase s x t) : SameSetup s t := by
  cases h with
  | read => exact ⟨rfl, rfl⟩
  | reset => exact ⟨rfl, rfl⟩
  | command a v i => exact runCommand_sameSetup i s
  | illegal a v w => exact illegalCommand_sameSetup w s
  | control a v => exact writeControl_sameSetup v s
  | element a v e => exact ⟨(writeElement_sameOutputs s e v).cfg, writeElement_host s e v⟩
  | refused => exact ⟨rfl, rfl⟩

/-! ### The state a reset leaves (R44, R220, R221) -/

/-- The state a reset leaves, from the configuration `c`, the draw counter `d` and the queue `rest`, with the answer `a`. -/
def freshState (c : LegalCfg) (d : Nat) (rest : List Transaction) (a : Option Answer) : State :=
  { State.reset with cfg := c, draw := d + 1, host := rest, answer := a }

/-- Of the transaction only its cause shows, in the answer: none for the pin, OK for the CTRL write (R181, R220). -/
theorem step_of_isReset {x : Transaction} (hx : IsReset x) :
    ∃ a, ∀ {s : State} {rest : List Transaction}, s.host = x :: rest →
      step s = .next (freshState s.cfg s.draw rest a) := by
  rcases hx with rfl | ⟨v, rfl, hv⟩
  · exact ⟨none, fun hhost => step_cons hhost⟩
  · exact ⟨some (.write .ok), fun hhost => (controlWriteResets _ v _ hhost).1 hv⟩

section
variable (c : LegalCfg) (d : Nat) (rest : List Transaction) (a : Option Answer)

theorem faultPin_freshState : faultPin (freshState c d rest a) = faultPin State.reset := rfl

theorem readElement_freshState_reg (r : Reg) :
    readElement (freshState c d rest a) (.reg r) = readReg State.reset r := by
  cases r <;> rfl

theorem readTile_freshState (t b : Nat) : readTile (freshState c d rest a) t b = readTile State.reset t b := rfl

end

end Sys2Proof.Machine
end

section
/-! PROOFS. The statements about resets and hazards (70_reset_and_hazards.md), from the layer above. -/

namespace Sys2Proof.Machine

/-- Settles O14: the idle step answers its own state, and every transaction taken off the queue completes. -/
theorem everyStepCompletes : Obligations.EveryStepCompletes := by
  intro s
  cases hhost : s.host with
  | nil => exact ⟨s, idleStepChangesNothing s hhost, hhost, rfl⟩
  | cons x rest =>
    obtain ⟨t, htransact, hcase⟩ := transact_cases { s with host := rest } x
    exact ⟨t, (step_cons hhost).trans htransact, hcase.sameSetup.host, hcase.sameSetup.cfg⟩

/-- Settles O16: both causes leave one state, which reads as the reset state does and is made of the configuration, the draw
counter and the queue alone. -/
theorem resetLeavesTheTable : Obligations.ResetLeavesTheTable := by
  intro s x rest hx hhost
  obtain ⟨a, hstep⟩ := step_of_isReset hx
  obtain ⟨hid, hzero, htile, hpin⟩ := resetStateMeetsTable
  refine ⟨⟨_, hstep hhost, ?pin, ?id, ?zero, ?tile⟩, ?same⟩
  case pin => rw [faultPin_freshState, hpin]
  case id => rw [readElement_freshState_reg, hid]
  case zero => exact fun r hr => by rw [readElement_freshState_reg, hzero r hr]
  case tile => exact fun i b => by rw [readTile_freshState, htile]
  case same =>
    intro s' hhost' hcfg hdraw
    rw [hstep hhost', hstep hhost, hcfg, hdraw]

end Sys2Proof.Machine
end
